-- ==== Sys2Proof/Word.lean ====
section
/-!
DEFINITION. Bytes and byte sequences (00_scope.md R11). The engine has no word, no register and no
address space: every operand and every result is a byte sequence or a number read from one.
-/

namespace Sys2Proof

/-- An 8-bit unsigned value (R11). -/
abbrev Byte := BitVec 8

/-- A byte sequence, offset 0 first (R11). -/
abbrev Bytes := List Byte

/-- The byte whose value is `n` modulo 256. -/
abbrev byteOf (n : Nat) : Byte := BitVec.ofNat 8 n

end Sys2Proof
end

