-- ==== Sys2Proof/Config.lean ====
section
/-!
DEFINITION. The build-time configuration (00_scope.md R8 to R10; 10_state.md R28): structural
parameters, layout parameters and table parameters. Where the source fixes a width or a byte order,
the parameter's type fixes it too (R9). Every OPEN value is a field here; no value is chosen.
-/

namespace Sys2Proof

/-- The byte order of a field descriptor (R9). -/
inductive ByteOrder
  | be
  | le
deriving DecidableEq, Repr, Inhabited

/-- The widths a `U` descriptor may have: 1, 2 or 4 bytes (R9). -/
inductive Width
  | w1
  | w2
  | w4
deriving DecidableEq, Repr, Inhabited

/-- The width in bytes (R9). -/
def Width.bytes : Width → Nat
  | .w1 => 1
  | .w2 => 2
  | .w4 => 4

/-- The widths of a temperature descriptor: at least 2 bytes (R180). -/
inductive TempWidth
  | w2
  | w4
deriving DecidableEq, Repr, Inhabited

/-- A temperature width as a `U` width. -/
def TempWidth.width : TempWidth → Width
  | .w2 => .w2
  | .w4 => .w4

/-- How far a `STR` or `RAW` descriptor reaches: a number of bytes, or `REST` (R9). -/
inductive Extent
  | fixed (len : Nat)
  | rest
deriving DecidableEq, Repr, Inhabited

/-- `U(off, w, ord)` (R9). -/
structure UField where
  off : Nat
  width : Width
  ord : ByteOrder
deriving DecidableEq, Repr, Inhabited

/-- `U(off, w, ord)` with `w >= 2` (R180). -/
structure TempField where
  off : Nat
  width : TempWidth
  ord : ByteOrder
deriving DecidableEq, Repr, Inhabited

/-- `STR(off, len)` or `RAW(off, len)`, which have one extent rule (R9). -/
structure SpanField where
  off : Nat
  extent : Extent
deriving DecidableEq, Repr, Inhabited

/-- A named fee descriptor `U(off, 2, ord)` (43_decoder_charge.md R195). -/
structure FeeField where
  name : String
  off : Nat
  ord : ByteOrder
deriving DecidableEq, Repr, Inhabited

/-- A reading for each of the three lines (R180). -/
structure PerLine (α : Type) where
  l1 : α
  l2 : α
  l3 : α
deriving DecidableEq, Repr, Inhabited

/-- Which end of the error bit string is first, `ERR_BIT_ORDER` (R8). -/
inductive ErrBitOrder
  | lsbFirst
  | msbFirst
deriving DecidableEq, Repr, Inhabited

/-- How string fields are trimmed, `NUL_TRIM` (R8). -/
inductive NulTrim
  | trailing
  | both
  | firstNul
deriving DecidableEq, Repr, Inhabited

/-- How the four output-power bytes form a number, `POWER_COMPOSE` (R8). It may also be given as an
arbitrary function of the four bytes (93_implementation_defined.md I20): `custom` (log 20). -/
inductive PowerCompose
  | be
  | le
  | wordswapBe
  | wordswapLe
  | custom
deriving DecidableEq, Repr, Inhabited

/-- Login layout (42_decoder.md R158). One-byte and four-byte fields need only an offset. -/
structure LoginLayout where
  typeOff : Nat
  manuf : SpanField
  model : SpanField
  hwver : SpanField
  powerOff : Nat
  maxAmpsOff : Nat
deriving DecidableEq, Repr, Inhabited

/-- AC-status layout (43_decoder_charge.md R180). The state fields are single bytes. -/
structure AcLayout where
  v : PerLine UField
  a : PerLine UField
  energy : UField
  tin : TempField
  tout : TempField
  errOff : Nat
  errOrd : ByteOrder
  plugOff : Nat
  outOff : Nat
  curOff : Nat
deriving DecidableEq, Repr, Inhabited

/-- Charge-status layout (43_decoder_charge.md R195). -/
structure ChargeLayout where
  session : SpanField
  user : SpanField
  resvOff : Nat
  startOff : Nat
  ctypeOff : Nat
  fees : List FeeField
deriving DecidableEq, Repr, Inhabited

/-- Charge-start acknowledgement layout (43_decoder_charge.md R200). -/
structure StartAckLayout where
  result : UField
  reason : UField
  amps : UField
deriving DecidableEq, Repr, Inhabited

/-- Version layout (44_decoder_config.md R221). `VER_FEATURE` is four bytes wide. -/
structure VersionLayout where
  hw : SpanField
  sw : SpanField
  featureOff : Nat
  featureOrd : ByteOrder
deriving DecidableEq, Repr, Inhabited

/-- The whole configuration (10_state.md R28). -/
structure Config where
  /-- `CHUNK_MAX`: largest delivery FEED accepts, 1 to 65535 (R8). -/
  chunkMax : Nat
  /-- `ENC_MAX_PAYLOAD`: largest payload ENCODE accepts, at most 65510 (R8). -/
  encMaxPayload : Nat
  /-- `PLUG_CU`: the plug_state code named Connected-Unlocked, any byte but 4 (R8). -/
  plugCu : Byte
  errBitOrder : ErrBitOrder
  nulTrim : NulTrim
  powerCompose : PowerCompose
  login : LoginLayout
  ac : AcLayout
  cs : ChargeLayout
  csa : StartAckLayout
  /-- `CST_RESULT` (R201). -/
  cstResult : UField
  /-- Offset of `TIME_EPOCH`, which is `U(off, 4, LE)` (R220). -/
  timeEpochOff : Nat
  version : VersionLayout
  /-- Offset of `AMPS`, which is `U(off, 1, -)` (R222). -/
  ampsOff : Nat
  /-- `NAME` (R223). -/
  name : SpanField
  /-- `LANG_CODE` (R224). -/
  langCode : UField
  /-- `TEMPU_CODE` (R225). -/
  tempuCode : UField
  plugNames : List String
  outputNames : List String
  currentNames : List String
  errorNames : List String
  /-- `STATUS_NAMES`, indexed 1 to 11 (R10): the first entry is the name of status 1 (log 8). -/
  statusNames : List String
  resvResultNames : List String
  errReasonNames : List String
  stopResultNames : List String
  /-- `LANG_NAMES`, a finite map from code to name (R10). -/
  langNames : List (Nat × String)
  /-- `TEMPU_NAMES`, a finite map from code to name (R10). -/
  tempuNames : List (Nat × String)
deriving DecidableEq, Repr, Inhabited

/-- `PLUG_CL`: the plug_state code named Connected-Locked (R8). -/
def plugCl : Nat := 4

/-- What R8, R10 and R195 require of a configuration: `CHUNK_MAX` 1 to 65535, `ENC_MAX_PAYLOAD` at most
65510, `PLUG_CU` not 4, at least one fee field, the two plug names the source fixes, and the two maps
with no key twice. -/
def Config.wf (c : Config) : Bool :=
  decide (1 ≤ c.chunkMax) && decide (c.chunkMax ≤ 65535) && decide (c.encMaxPayload ≤ 65510)
    && c.plugCu.toNat != plugCl && !c.cs.fees.isEmpty
    && c.plugNames[plugCl]? == some "Connected-Locked"
    && c.plugNames[c.plugCu.toNat]? == some "Connected-Unlocked"
    && decide (c.statusNames.length ≤ 11)
    && decide (c.langNames.map Prod.fst).Nodup && decide (c.tempuNames.map Prod.fst).Nodup

/-- The example configuration of 92_eei_decisions.md §2. It is an example, not the device's: no meaning
reads it, and the machine is built with `Config.build`. -/
def Config.excfg : Config where
  chunkMax := 65535
  encMaxPayload := 65510
  plugCu := 5
  errBitOrder := .lsbFirst
  nulTrim := .trailing
  powerCompose := .be
  login :=
    { typeOff := 0, manuf := ⟨1, .fixed 8⟩, model := ⟨9, .fixed 8⟩, hwver := ⟨17, .fixed 4⟩
      powerOff := 21, maxAmpsOff := 25 }
  ac :=
    { v := ⟨⟨0, .w2, .be⟩, ⟨2, .w2, .be⟩, ⟨4, .w2, .be⟩⟩
      a := ⟨⟨6, .w2, .be⟩, ⟨8, .w2, .be⟩, ⟨10, .w2, .be⟩⟩
      energy := ⟨12, .w2, .be⟩, tin := ⟨14, .w2, .be⟩, tout := ⟨16, .w2, .be⟩
      errOff := 21, errOrd := .be, plugOff := 18, outOff := 19, curOff := 20 }
  cs :=
    { session := ⟨0, .fixed 4⟩, user := ⟨4, .fixed 4⟩, resvOff := 8, startOff := 9, ctypeOff := 10
      fees := [⟨"charge_fee", 11, .be⟩, ⟨"service_fee", 13, .be⟩] }
  csa := { result := ⟨0, .w1, .be⟩, reason := ⟨1, .w1, .be⟩, amps := ⟨2, .w1, .be⟩ }
  cstResult := ⟨0, .w1, .be⟩
  timeEpochOff := 0
  version := { hw := ⟨0, .fixed 4⟩, sw := ⟨4, .fixed 4⟩, featureOff := 8, featureOrd := .be }
  ampsOff := 0
  name := ⟨0, .rest⟩
  langCode := ⟨0, .w1, .be⟩
  tempuCode := ⟨0, .w1, .be⟩
  plugNames := ["PLUG-0", "PLUG-1", "PLUG-2", "PLUG-3", "Connected-Locked", "Connected-Unlocked"]
  outputNames := []
  currentNames := []
  errorNames := []
  statusNames := []
  resvResultNames := []
  errReasonNames := []
  stopResultNames := []
  langNames := []
  tempuNames := []

/-- The function of the four output-power bytes that a `custom` composition stands for: a constant with no
body, so nothing is known of it but that its value has 32 bits (DESIGN CHOICE, log 20; safe). -/
opaque Config.customPower : Bytes → BitVec 32

/-- Whatever configuration the builder chose: a constant with no body, so nothing is known of it
(DESIGN CHOICE, log 4; safe: every well-formed configuration is a possible value). -/
opaque Config.chosen : Config

/-- The configuration the engine is built with (R28, R333): the chosen one, which must meet R8 and R10.
A choice that does not is no configuration of the engine; the example stands in for it only so that
`Config.build` is well-formed whatever was chosen (log 4). -/
def Config.build : Config := if Config.chosen.wf then Config.chosen else Config.excfg

end Sys2Proof
end

