-- ==== Sys2Proof/Syntax.lean ====
section
/-!
DEFINITION. The instruction set (00_scope.md R2): the seven host operations and the reserved OP values
(30_encoding.md R60, R63), and the wire-frame command codes the decoder dispatches on (R72). Also the
closed sets of names the rules use for phase counts, kinds, reject codes and drop reasons.
-/

namespace Sys2Proof

/-- The AC phase count of a well-formed operand: 1 or 3 (30_encoding.md R61). -/
inductive Phases
  | one
  | three
deriving DecidableEq, Repr, Inhabited

/-- The message kinds: 12 over 14 command codes, and UNKNOWN (30_encoding.md R72). -/
inductive Kind
  | loginBeacon
  | loginResponse
  | acStatus
  | chargeStatus
  | chargeStartAck
  | chargeStopAck
  | systemTime
  | version
  | outputAmps
  | deviceName
  | language
  | temperatureUnit
  | unknown
deriving DecidableEq, Repr, Inhabited

/-- Why a request is rejected (60_exceptions.md R302). -/
inductive RejectCode
  | badOp
  | badOperand
  | chunkTooLong
  | encTooLong
deriving DecidableEq, Repr, Inhabited

/-- Why a candidate is dropped (60_exceptions.md R303). -/
inductive DropReason
  | short
  | header
  | length
  | trailer
  | checksum
  | zeroLength
deriving DecidableEq, Repr, Inhabited

/-- Why a valid frame does not decode: one reason exists (60_exceptions.md R304). -/
inductive DecodeReason
  | payloadShort
deriving DecidableEq, Repr, Inhabited

/-- The Validator's verdict on a candidate (41_validator.md R132). -/
inductive Verdict
  | valid
  | drop (reason : DropReason)
deriving DecidableEq, Repr, Inhabited

/-- One constructor per row of spec/opcode_table.json. The host operations carry the operands of R61;
`ph` of FEED and DECODE is the raw operand byte, which R62 check 3 judges. A command-code row is the
instruction that a DECODE request becomes when its phase count is legal and its frame validates: it
carries that phase count and the frame (log 5). -/
inductive Instr
  /-- RESET, OP 01 (R110). -/
  | reset
  /-- FEED, OP 02 (R100). -/
  | feed (ph : Byte) (chunk : Bytes)
  /-- ENCODE, OP 03 (R250). -/
  | encode (serial : BitVec 64) (password : Bytes) (cmd : BitVec 16) (payload : Bytes)
  /-- VALIDATE, OP 04 (R132). -/
  | validate (data : Bytes)
  /-- DECODE, OP 05 (R150). -/
  | decode (ph : Byte) (frame : Bytes)
  /-- CSUM_DEC, OP 06 (R130). -/
  | csumDec (data : Bytes)
  /-- CSUM_ENC, OP 07 (R131). -/
  | csumEnc (data : Bytes)
  /-- RESERVED_OP: OP 00 and 08 to FF, with whatever bytes follow (R63). -/
  | reservedOp (op : Byte) (operands : Bytes)
  /-- LOGIN_BEACON, command code 1 (R160). -/
  | loginBeacon (ph : Phases) (frame : Bytes)
  /-- LOGIN_RESPONSE, command code 2 (R161). -/
  | loginResponse (ph : Phases) (frame : Bytes)
  /-- AC_STATUS, command code 4 (R190). -/
  | acStatus4 (ph : Phases) (frame : Bytes)
  /-- CHARGE_STATUS, command code 5 (R198). -/
  | chargeStatus5 (ph : Phases) (frame : Bytes)
  /-- CHARGE_STATUS, command code 6 (R199). -/
  | chargeStatus6 (ph : Phases) (frame : Bytes)
  /-- CHARGE_START_ACK, command code 7 (R200). -/
  | chargeStartAck (ph : Phases) (frame : Bytes)
  /-- CHARGE_STOP_ACK, command code 8 (R201). -/
  | chargeStopAck (ph : Phases) (frame : Bytes)
  /-- AC_STATUS, command code 13 (R191). -/
  | acStatus13 (ph : Phases) (frame : Bytes)
  /-- SYSTEM_TIME, command code 257 (R220). -/
  | systemTime (ph : Phases) (frame : Bytes)
  /-- VERSION, command code 262 (R221). -/
  | version (ph : Phases) (frame : Bytes)
  /-- OUTPUT_AMPS, command code 263 (R222). -/
  | outputAmps (ph : Phases) (frame : Bytes)
  /-- DEVICE_NAME, command code 264 (R223). -/
  | deviceName (ph : Phases) (frame : Bytes)
  /-- LANGUAGE, command code 271 (R224). -/
  | language (ph : Phases) (frame : Bytes)
  /-- TEMPERATURE_UNIT, command code 274 (R225). -/
  | temperatureUnit (ph : Phases) (frame : Bytes)
  /-- UNKNOWN: every other command code (R153). -/
  | unknown (ph : Phases) (frame : Bytes)
deriving DecidableEq, Repr, Inhabited

end Sys2Proof
end

