-- ==== Sys2Proof/Machine/Operands.lean ====
section
/-!
DEFINITION. Operand forms: byte reads and byte-order helpers (00_scope.md R11, R12), the field
descriptors' read `FieldRead` (20_memory.md R48), the string view `Trim` (R50) and the phase-count
operand (30_encoding.md R62). Every meaning and the decoder read bytes through these.
-/

namespace Sys2Proof.Machine

/-- `b[i]` (R11). Outside the sequence no rule reads; the value there is 0. -/
def byteAt (b : Bytes) (i : Nat) : Byte := b.getD i 0

/-- `b[i:j]`: indices `i` to `j-1`, empty when `j <= i` (R11). -/
def slice (b : Bytes) (i j : Nat) : Bytes := (b.drop i).take (j - i)

/-- The number whose big-endian bytes are `b`: sum over `k` of `b[k] * 256^(w-1-k)` (R48). -/
def beValue (b : Bytes) : Nat := b.foldl (fun acc x => acc * 256 + x.toNat) 0

/-- The number whose little-endian bytes are `b`: sum over `k` of `b[k] * 256^k` (R48). -/
def leValue (b : Bytes) : Nat := b.foldr (fun x acc => x.toNat + 256 * acc) 0

/-- A byte sequence as a number in the given byte order (R48). -/
def uintValue (ord : ByteOrder) (b : Bytes) : Nat :=
  match ord with
  | .be => beValue b
  | .le => leValue b

/-- `u16be(b, o)` (R12). -/
def u16be (b : Bytes) (o : Nat) : Nat := (byteAt b o).toNat * 256 + (byteAt b (o + 1)).toNat

/-- `u16le(b, o)` (R12). -/
def u16le (b : Bytes) (o : Nat) : Nat := (byteAt b o).toNat + (byteAt b (o + 1)).toNat * 256

/-- `u32be(b, o)` (R12). -/
def u32be (b : Bytes) (o : Nat) : Nat := u16be b o * 65536 + u16be b (o + 2)

/-- `u32le(b, o)` (R12). -/
def u32le (b : Bytes) (o : Nat) : Nat := u16le b o + u16le b (o + 2) * 65536

/-- `u64le(b, o)` (R12). -/
def u64le (b : Bytes) (o : Nat) : Nat := leValue (slice b o (o + 8))

/-- `be16(v)` for `v` at most 65535 (R12). -/
def be16 (v : Nat) : Bytes := [byteOf (v / 256), byteOf v]

/-- `le64(v)`: byte `k` is `(v div 256^k) mod 256` (R12). -/
def le64 (v : Nat) : Bytes := (List.range 8).map fun k => byteOf (v / 256 ^ k)

/-- What a payload decode answers: a value, or `DecodeError(reason)` (20_memory.md R48). -/
abbrev Decoded (α : Type) := Except DecodeReason α

/-- `FieldRead` of `U(off, w, ord)` with the width in bytes (20_memory.md R48). -/
def readUInt (p : Bytes) (off w : Nat) (ord : ByteOrder) : Decoded Nat :=
  if off + w > p.length then .error .payloadShort else .ok (uintValue ord (slice p off (off + w)))

/-- `FieldRead` of `STR(off, len)` and `RAW(off, len)` (20_memory.md R48). -/
def readSpan (p : Bytes) (off : Nat) (e : Extent) : Decoded Bytes :=
  match e with
  | .rest => if off > p.length then .error .payloadShort else .ok (slice p off p.length)
  | .fixed len =>
    if off + len > p.length then .error .payloadShort else .ok (slice p off (off + len))

/-- `FieldRead` of a `U` descriptor. -/
def readU (p : Bytes) (d : UField) : Decoded Nat := readUInt p d.off d.width.bytes d.ord

/-- `FieldRead` of a temperature descriptor. -/
def readTemp (p : Bytes) (d : TempField) : Decoded Nat := readUInt p d.off d.width.width.bytes d.ord

/-- `FieldRead` of `U(off, 1, -)`: the byte order is ignored (R9). -/
def readByte (p : Bytes) (off : Nat) : Decoded Nat := readUInt p off 1 .be

/-- `FieldRead` of a fee descriptor, `U(off, 2, ord)` (R195). -/
def readFee (p : Bytes) (d : FeeField) : Decoded Nat := readUInt p d.off 2 d.ord

/-- `FieldRead` of a `STR` or `RAW` descriptor. -/
def readField (p : Bytes) (d : SpanField) : Decoded Bytes := readSpan p d.off d.extent

/-- `FieldRead` of three descriptors, one for each line. -/
def readLines (p : Bytes) (d : PerLine UField) : Decoded (PerLine Nat) := do
  let x1 ← readU p d.l1
  let x2 ← readU p d.l2
  let x3 ← readU p d.l3
  return ⟨x1, x2, x3⟩

/-- Where a `STR` or `RAW` descriptor ends; `REST` asks only that the payload reaches its offset (R48). -/
def extentEnd (off : Nat) (e : Extent) : Nat :=
  match e with
  | .rest => off
  | .fixed len => off + len

/-- The bytes a `STR` or `RAW` descriptor covers in a payload that holds it (R48). -/
def extentBytes (p : Bytes) (off : Nat) (e : Extent) : Bytes :=
  match e with
  | .rest => p.drop off
  | .fixed len => (p.drop off).take len

/-- `s` without the `00` bytes at its end. -/
def trimTrailing (s : Bytes) : Bytes := (s.reverse.dropWhile (· == 0)).reverse

/-- `Trim(s)` (20_memory.md R50). -/
def trim (t : NulTrim) (s : Bytes) : Bytes :=
  match t with
  | .trailing => trimTrailing s
  | .both => trimTrailing (s.dropWhile (· == 0))
  | .firstNul => s.takeWhile (· != 0)

/-- The phase count of an operand byte: 1 or 3, any other value is no phase count (R62 check 3). -/
def phasesOf (ph : Byte) : Option Phases :=
  if ph.toNat = 1 then some .one else if ph.toNat = 3 then some .three else none

/-- The operand byte of a phase count (R61). -/
def phasesByte : Phases → Byte
  | .one => 1
  | .three => 3

/-- The readings of lines 1 to `ph` (R187). -/
def presentLines {α : Type} (x : PerLine α) : Phases → List α
  | .one => [x.l1]
  | .three => [x.l1, x.l2, x.l3]

end Sys2Proof.Machine
end

