-- ==== Sys2Proof/Machine/Flags.lean ====
section
/-!
DEFINITION. The engine has no status flags (10_state.md R22). What it computes in their place, for a
response: the two checksums and the verdict of the Validator (41_validator.md R130 to R136), and the
numbers of the outcome codes (60_exceptions.md R302 to R304).
-/

namespace Sys2Proof.Machine

/-- The sum of all bytes (R130, R131). -/
def byteSum (b : Bytes) : Nat := (b.map BitVec.toNat).sum

/-- `CsumDec(data)`: the sum modulo 65536 (R130). -/
def csumDec (b : Bytes) : Nat := byteSum b % 65536

/-- `CsumEnc(data)`: the sum modulo 65535 (R131). -/
def csumEnc (b : Bytes) : Nat := byteSum b % 65535

/-- `Validate(f)`: the five checks in their order (R132, R133); the checksum and the trailer are located
from the candidate's end (R136), and only the low byte of the length is compared (R134). -/
def validate (f : Bytes) : Verdict :=
  let n := f.length
  if n < 25 then .drop .short
  else if byteAt f 0 ≠ 0x06 ∨ byteAt f 1 ≠ 0x01 then .drop .header
  else if (byteAt f 3).toNat ≠ n % 256 then .drop .length
  else if byteAt f (n - 2) ≠ 0x0F ∨ byteAt f (n - 1) ≠ 0x02 then .drop .trailer
  else if csumDec (slice f 0 (n - 4)) ≠ u16be f (n - 4) then .drop .checksum
  else .valid

/-- The number of a reject code (R302). -/
def rejectNumber : RejectCode → Nat
  | .badOp => 1
  | .badOperand => 2
  | .chunkTooLong => 3
  | .encTooLong => 4

/-- The number of a drop reason (R303). -/
def dropNumber : DropReason → Nat
  | .short => 1
  | .header => 2
  | .length => 3
  | .trailer => 4
  | .checksum => 5
  | .zeroLength => 6

/-- The number of a decode-error reason (R304). -/
def decodeErrorNumber : DecodeReason → Nat
  | .payloadShort => 1

end Sys2Proof.Machine
end

