-- ==== Sys2Proof/Machine/Frame.lean ====
section
/-!
DEFINITION. The wire frame (30_encoding.md R70): its command code and payload as the decoder reads them,
the frame the encoder builds (45_encoder.md R250), and the map from command code to kind (R72).
-/

namespace Sys2Proof.Machine

/-- The command code of a frame, `u16be(f, 19)` (R151). -/
def frameCode (f : Bytes) : Nat := u16be f 19

/-- `payload(f) = f[21 : n-4]` (20_memory.md R41). -/
def payloadOf (f : Bytes) : Bytes := slice f 21 (f.length - 4)

/-- Header magic through payload: the bytes the checksum covers, with `n = 25 + P` (R250, R251). -/
def frameBody (serial : Nat) (password : Bytes) (cmd : Nat) (payload : Bytes) : Bytes :=
  [0x06, 0x01] ++ be16 (25 + payload.length) ++ [0x00] ++ le64 serial ++ password ++ be16 cmd
    ++ payload

/-- The frame ENCODE builds (R250): the body, its encode-side checksum, the trailer. -/
def buildFrame (serial : Nat) (password : Bytes) (cmd : Nat) (payload : Bytes) : Bytes :=
  let f := frameBody serial password cmd payload
  f ++ be16 (csumEnc f) ++ [0x0F, 0x02]

/-- `Dispatch(cmd)` (42_decoder.md R152; 30_encoding.md R72). -/
def dispatchKind (cmd : Nat) : Kind :=
  match cmd with
  | 1 => .loginBeacon
  | 2 => .loginResponse
  | 4 => .acStatus
  | 13 => .acStatus
  | 5 => .chargeStatus
  | 6 => .chargeStatus
  | 7 => .chargeStartAck
  | 8 => .chargeStopAck
  | 257 => .systemTime
  | 262 => .version
  | 263 => .outputAmps
  | 264 => .deviceName
  | 271 => .language
  | 274 => .temperatureUnit
  | _ => .unknown

end Sys2Proof.Machine
end

