-- ==== Sys2Proof/WellFormed.lean ====
section
/-!
DEFINITION. Which instructions a request can carry (30_encoding.md R61, R63, R72): the operand widths of
the formats, and for a command-code row a validated frame with that command code.
-/

namespace Sys2Proof

open Machine

/-- A count the request format can carry, 0 to 65535 (R61). -/
def countFits (b : Bytes) : Bool := decide (b.length < 65536)

/-- `op` is reserved: 00 or 08 to FF (R63). -/
def opReserved (op : Byte) : Bool := op.toNat == 0 || decide (8 ≤ op.toNat)

/-- The frame fits the request, validates, and dispatches on the code `cmd` (R72, R132). -/
def frameHasCode (cmd : Nat) (f : Bytes) : Bool :=
  countFits f && validate f == .valid && frameCode f == cmd

/-- The frame fits the request, validates, and carries an unassigned code (R73). -/
def frameUnassigned (f : Bytes) : Bool :=
  countFits f && validate f == .valid && dispatchKind (frameCode f) == .unknown

/-- A DECODE operand pair that is decoded no further: its phase count is none, or its frame does not
validate. A pair with a legal phase count and a valid frame is its command code's instruction. -/
def decodeStops (ph : Byte) (f : Bytes) : Bool := (phasesOf ph).isNone || validate f != .valid

/-- The instructions that requests encode. -/
def Instr.wellFormed : Instr → Bool
  | .reset => true
  | .feed _ chunk => countFits chunk
  | .encode _ password _ payload => password.length == 6 && countFits payload
  | .validate data => countFits data
  | .decode ph f => countFits f && decodeStops ph f
  | .csumDec data => countFits data
  | .csumEnc data => countFits data
  | .reservedOp op _ => opReserved op
  | .loginBeacon _ f => frameHasCode 1 f
  | .loginResponse _ f => frameHasCode 2 f
  | .acStatus4 _ f => frameHasCode 4 f
  | .chargeStatus5 _ f => frameHasCode 5 f
  | .chargeStatus6 _ f => frameHasCode 6 f
  | .chargeStartAck _ f => frameHasCode 7 f
  | .chargeStopAck _ f => frameHasCode 8 f
  | .acStatus13 _ f => frameHasCode 13 f
  | .systemTime _ f => frameHasCode 257 f
  | .version _ f => frameHasCode 262 f
  | .outputAmps _ f => frameHasCode 263 f
  | .deviceName _ f => frameHasCode 264 f
  | .language _ f => frameHasCode 271 f
  | .temperatureUnit _ f => frameHasCode 274 f
  | .unknown _ f => frameUnassigned f

end Sys2Proof
end

