-- ==== Sys2Proof/Decode.lean ====
section
/-!
DEFINITION. The decoder and the encoder of requests (30_encoding.md R60 to R63, R67, R72). The decoder is
total: it answers an instruction, or refuses by name with the reject code of R62 checks 1 and 2 (an empty
request, a request whose length disagrees with its format). A reserved OP is an instruction of its own
(R63), and checks 3 to 5 of R62 belong to the meanings, which R62 orders after these.
-/

namespace Sys2Proof

open Machine

/-- The instruction of a validated frame, by its command code (R72). -/
def frameInstr (ph : Phases) (f : Bytes) : Instr :=
  match frameCode f with
  | 1 => .loginBeacon ph f
  | 2 => .loginResponse ph f
  | 4 => .acStatus4 ph f
  | 5 => .chargeStatus5 ph f
  | 6 => .chargeStatus6 ph f
  | 7 => .chargeStartAck ph f
  | 8 => .chargeStopAck ph f
  | 13 => .acStatus13 ph f
  | 257 => .systemTime ph f
  | 262 => .version ph f
  | 263 => .outputAmps ph f
  | 264 => .deviceName ph f
  | 271 => .language ph f
  | 274 => .temperatureUnit ph f
  | _ => .unknown ph f

/-- A DECODE request's instruction: its command code's row when the phase count is legal and the frame
validates, else DECODE itself (log 5). -/
def decodeOperation (ph : Byte) (f : Bytes) : Instr :=
  match phasesOf ph with
  | none => .decode ph f
  | some p => if validate f = .valid then frameInstr p f else .decode ph f

/-- Format `HOST_PD`: `q[1] = ph`, `q[2:4] = be16(m)`, `q[4:4+m] = data` (R61, R67). -/
def decodePhData (q : Bytes) (mk : Byte → Bytes → Instr) : Except RejectCode Instr :=
  if q.length < 4 ∨ q.length ≠ 4 + u16be q 2 then .error .badOperand
  else .ok (mk (byteAt q 1) (q.drop 4))

/-- Format `HOST_D`: `q[1:3] = be16(m)`, `q[3:3+m] = data` (R61, R67). -/
def decodeData (q : Bytes) (mk : Bytes → Instr) : Except RejectCode Instr :=
  if q.length < 3 ∨ q.length ≠ 3 + u16be q 1 then .error .badOperand else .ok (mk (q.drop 3))

/-- Format `HOST_E`: `q[1:9] = le64(serial)`, `q[9:15] = password`, `q[15:17] = be16(cmd)`,
`q[17:19] = be16(P)`, `q[19:19+P] = payload` (R61, R67). -/
def decodeEncodeOperands (q : Bytes) : Except RejectCode Instr :=
  if q.length < 19 ∨ q.length ≠ 19 + u16be q 17 then .error .badOperand
  else
    .ok (.encode (BitVec.ofNat 64 (u64le q 1)) (slice q 9 15) (BitVec.ofNat 16 (u16be q 15))
      (q.drop 19))

/-- The instruction a request encodes, or the reject code of R62 checks 1 and 2. -/
def decode (q : Bytes) : Except RejectCode Instr :=
  match q with
  | [] => .error .badOp
  | op :: operands =>
    match op.toNat with
    | 1 => if operands = [] then .ok .reset else .error .badOperand
    | 2 => decodePhData q .feed
    | 3 => decodeEncodeOperands q
    | 4 => decodeData q .validate
    | 5 => decodePhData q decodeOperation
    | 6 => decodeData q .csumDec
    | 7 => decodeData q .csumEnc
    | _ => .ok (.reservedOp op operands)

/-- A `HOST_PD` request (R61). -/
def requestPhData (op ph : Byte) (d : Bytes) : Bytes := [op, ph] ++ be16 d.length ++ d

/-- A `HOST_D` request (R61). -/
def requestData (op : Byte) (d : Bytes) : Bytes := [op] ++ be16 d.length ++ d

/-- The DECODE request that carries a command-code instruction (log 5). -/
def requestFrame (ph : Phases) (f : Bytes) : Bytes := requestPhData 0x05 (phasesByte ph) f

/-- The request that encodes an instruction (R61). -/
def encode : Instr → Bytes
  | .reset => [0x01]
  | .feed ph chunk => requestPhData 0x02 ph chunk
  | .encode serial password cmd payload =>
    [0x03] ++ le64 serial.toNat ++ password ++ be16 cmd.toNat ++ be16 payload.length ++ payload
  | .validate data => requestData 0x04 data
  | .decode ph f => requestPhData 0x05 ph f
  | .csumDec data => requestData 0x06 data
  | .csumEnc data => requestData 0x07 data
  | .reservedOp op operands => op :: operands
  | .loginBeacon ph f => requestFrame ph f
  | .loginResponse ph f => requestFrame ph f
  | .acStatus4 ph f => requestFrame ph f
  | .chargeStatus5 ph f => requestFrame ph f
  | .chargeStatus6 ph f => requestFrame ph f
  | .chargeStartAck ph f => requestFrame ph f
  | .chargeStopAck ph f => requestFrame ph f
  | .acStatus13 ph f => requestFrame ph f
  | .systemTime ph f => requestFrame ph f
  | .version ph f => requestFrame ph f
  | .outputAmps ph f => requestFrame ph f
  | .deviceName ph f => requestFrame ph f
  | .language ph f => requestFrame ph f
  | .temperatureUnit ph f => requestFrame ph f
  | .unknown ph f => requestFrame ph f

/-- Bytes of the fixed part of a host operation's format (R61); a reserved OP is one byte. -/
def fixedPart (op : Nat) : Nat :=
  match op with
  | 2 => 4
  | 3 => 19
  | 4 => 3
  | 5 => 4
  | 6 => 3
  | 7 => 3
  | _ => 1

/-- The request of an opcode-table row (log 6). A row of 1 to 8 bits is a host operation: its OP byte, and
every other byte of the format's fixed part 00. Any other row (a wider one, or UNKNOWN's, in which the table
fixes no bit) is a command code: a DECODE request with phase count 1 and the frame of that code whose serial,
password and payload are zeros and empty. -/
def tableRequest (nbits w : Nat) : Bytes :=
  if 0 < nbits ∧ nbits ≤ 8 then byteOf w :: List.replicate (fixedPart (w % 256) - 1) 0
  else requestFrame .one (buildFrame 0 (List.replicate 6 0) (w % 65536) [])

/-- The instruction the decoder reads from an opcode-table row's request. -/
def decodeTableWord (nbits w : Nat) : Option Instr :=
  match decode (tableRequest nbits w) with
  | .ok i => some i
  | .error _ => none

end Sys2Proof
end

