-- ==== Sys2Proof/Machine/State.lean ====
section
/-!
DEFINITION. The machine's state (10_state.md), the typed events and responses it returns
(30_encoding.md R64; 60_exceptions.md R300), the reasons a step could stop, and the state after reset.
-/

namespace Sys2Proof.Machine

/-- Why a step stops with a fault: never. The engine takes no trap (60_exceptions.md R306), so the type
has no constructor. -/
inductive Fault
deriving DecidableEq, Repr

/-- Why a step is refused. -/
inductive Refusal
  /-- An arm of `exec` whose instruction has no meaning yet; no arm raises it. Safe. -/
  | notModelled (mnemonic : String)
deriving DecidableEq, Repr

/-- The frame header every `FRAME` event carries (42_decoder.md R151). -/
structure Header where
  keyType : Byte
  serial : BitVec 64
  password : Bytes
  cmd : BitVec 16
  payload : Bytes
  csum : BitVec 16
deriving DecidableEq, Repr, Inhabited

/-- A login record (42_decoder.md R159). Strings are raw bytes. -/
structure LoginRecord where
  type : Nat
  phases : Phases
  manufacturer : Bytes
  model : Bytes
  hwVersion : Bytes
  powerRaw : Nat
  maxAmps : Nat
deriving DecidableEq, Repr, Inhabited

/-- A temperature: hundredths of a degree Celsius, and whether it is the sentinel (R184). -/
structure Temperature where
  sentinel : Bool
  centi : Int
deriving DecidableEq, Repr, Inhabited

/-- An AC-status record (43_decoder_charge.md R181). Scaled values are exact rationals (R14). -/
structure AcRecord where
  vRaw : PerLine Nat
  aRaw : PerLine Nat
  energyRaw : Nat
  voltage : PerLine Rat
  amperage : PerLine Rat
  energy : Rat
  tIn : Temperature
  tOut : Temperature
  errWidth : Nat
  errBits : Nat
  errIndex : Nat
  plugState : Nat
  outputState : Nat
  currentState : Nat
  status : Nat
  powerMw : Nat
  powerKw : Rat
deriving DecidableEq, Repr, Inhabited

/-- A fee: the raw value, whether it is the sentinel, and the scaled value (R197). -/
structure FeeValue where
  raw : Nat
  sentinel : Bool
  value : Rat
deriving DecidableEq, Repr, Inhabited

/-- A charge-status record (43_decoder_charge.md R196). -/
structure ChargeRecord where
  sessionId : Bytes
  userId : Bytes
  reservation : Nat
  start : Nat
  chargeType : Nat
  fees : List FeeValue
deriving DecidableEq, Repr, Inhabited

/-- A charge-start acknowledgement (43_decoder_charge.md R200). -/
structure StartAckRecord where
  reservationResult : Nat
  errorReason : Nat
  outputAmps : Nat
deriving DecidableEq, Repr, Inhabited

/-- A version record (44_decoder_config.md R221). -/
structure VersionRecord where
  hwVersion : Bytes
  swVersion : Bytes
  feature : Nat
deriving DecidableEq, Repr, Inhabited

/-- The record of a kind (42_decoder.md R150). -/
inductive Record
  /-- Codes 1 and 2 (R159). -/
  | login (r : LoginRecord)
  /-- Codes 4 and 13 (R181). -/
  | acStatus (r : AcRecord)
  /-- Codes 5 and 6 (R196). -/
  | chargeStatus (r : ChargeRecord)
  /-- Code 7 (R200). -/
  | chargeStartAck (r : StartAckRecord)
  /-- Code 8 (R201). -/
  | chargeStopAck (stopResult : Nat)
  /-- Code 257 (R220). -/
  | systemTime (epoch : Nat)
  /-- Code 262 (R221). -/
  | version (r : VersionRecord)
  /-- Code 263 (R222). -/
  | outputAmps (amps : Nat)
  /-- Code 264 (R223). -/
  | deviceName (name : Bytes)
  /-- Code 271 (R224). -/
  | language (code : Nat)
  /-- Code 274 (R225). -/
  | temperatureUnit (code : Nat)
  /-- Every other code: an empty record (R153). -/
  | unknown
deriving DecidableEq, Repr, Inhabited

/-- An event of FEED or DECODE (60_exceptions.md R300). -/
inductive Event
  /-- A candidate that validated and decoded. -/
  | frame (kind : Kind) (hdr : Header) (record : Record)
  /-- A candidate that failed a check, or a zero-length header's buffer. -/
  | drop (reason : DropReason) (bytes : Bytes)
  /-- A valid frame whose payload does not hold its kind's fields. -/
  | decodeError (cmd : BitVec 16) (reason : DecodeReason) (bytes : Bytes)
deriving DecidableEq, Repr, Inhabited

/-- The status of a response (60_exceptions.md R301). -/
inductive Status
  | ok
  | reject (code : RejectCode)
deriving DecidableEq, Repr, Inhabited

/-- The value of a response (30_encoding.md R64). -/
inductive Value
  /-- CSUM_DEC, CSUM_ENC: a 16-bit number. -/
  | checksum (v : BitVec 16)
  /-- VALIDATE: a verdict. -/
  | verdict (v : Verdict)
  /-- ENCODE: the frame bytes. -/
  | frame (f : Bytes)
deriving DecidableEq, Repr, Inhabited

/-- A response record (30_encoding.md R64). -/
structure Response where
  status : Status
  events : List Event
  value : Option Value
deriving DecidableEq, Repr, Inhabited

/-- The engine. `raBuf` and `raLen` are all its run-time state (10_state.md R23); `cfg` is fixed when it
is built (R28); `inbox` and `responses` are the two sides of its host port, the model's own fields
(log 1, log 2). -/
structure State where
  /-- `RA_BUF`, the pending buffer (R24). -/
  raBuf : Bytes
  /-- `RA_LEN`, the declared length of the pending frame (R25). -/
  raLen : Option Nat
  /-- The build-time configuration (R28; log 4). -/
  cfg : Config
  /-- Requests issued and not yet served, oldest first (R51, R61; log 1). -/
  inbox : List Bytes
  /-- Responses returned, oldest first (R53, R64; log 2). -/
  responses : List Response
deriving DecidableEq, Repr, Inhabited

/-- The phases of the Reassembler (10_state.md R26). -/
inductive RaPhase
  | idle
  | hdrNoLen
  | collecting (len : Nat)
deriving DecidableEq, Repr, Inhabited

/-- Power-on reset (10_state.md R29; 70_reset_and_hazards.md R330): nothing pending, the build-time
configuration, no request issued and no response returned. -/
def State.reset : State :=
  { raBuf := [], raLen := none, cfg := Config.build, inbox := [], responses := [] }

end Sys2Proof.Machine
end

