-- ==== Sys2Proof/Machine/Ops.lean ====
section
/-!
DEFINITION. The operations on the state that every meaning is made of: writing the Reassembler's state,
returning a response, fetching and issuing a request. The engine takes no trap and returns from none
(60_exceptions.md R306, R307), so taking an exception has no operation here; what stands in its place is
the rejection of a request (R301), which writes no state of the engine.
-/

namespace Sys2Proof.Machine

/-- What a meaning answers. -/
abbrev Result := Host.Outcome State Fault Refusal

/-- Write `RA_BUF` and `RA_LEN` (10_state.md R23). -/
def State.setRa (s : State) (buf : Bytes) (len : Option Nat) : State :=
  { s with raBuf := buf, raLen := len }

/-- Return a response: responses come back in the order the requests are issued (20_memory.md R53). -/
def State.respond (s : State) (r : Response) : State := { s with responses := s.responses ++ [r] }

/-- `OK` with an ordered event list and no value (R64: FEED, DECODE, RESET). -/
def okEvents (events : List Event) : Response := { status := .ok, events := events, value := none }

/-- `OK` with a value and no events (R64: CSUM_DEC, CSUM_ENC, VALIDATE, ENCODE). -/
def okValue (v : Value) : Response := { status := .ok, events := [], value := some v }

/-- `REJECT(code)`, with no events and no value (R64). -/
def rejected (c : RejectCode) : Response := { status := .reject c, events := [], value := none }

/-- A rejected request leaves the engine's state unchanged (R62, R301). -/
def rejectRequest (c : RejectCode) (s : State) : Result := .next (s.respond (rejected c))

/-- An operation that writes no state and returns a value (10_state.md R30). -/
def answerValue (v : Value) (s : State) : Result := .next (s.respond (okValue v))

/-- An operation that writes no state and returns one event (10_state.md R30). -/
def answerEvent (e : Event) (s : State) : Result := .next (s.respond (okEvents [e]))

/-- Take the oldest request from the host port (20_memory.md R51). -/
def State.fetch (s : State) : Option (Bytes × State) :=
  match s.inbox with
  | [] => none
  | q :: rest => some (q, { s with inbox := rest })

/-- The host issues a request (30_encoding.md R61): it is served after those issued before. -/
def State.issue (s : State) (q : Bytes) : State := { s with inbox := s.inbox ++ [q] }

/-- The Reassembler's phase, a view of its state (10_state.md R26). The states that R27 rules out have
none. -/
def State.phase (s : State) : Option RaPhase :=
  match s.raLen with
  | none =>
    if s.raBuf = [] then some .idle
    else if slice s.raBuf 0 2 = [0x06, 0x01] ∧ s.raBuf.length ≤ 3 then some .hdrNoLen
    else none
  | some len => if s.raBuf.length < len then some (.collecting len) else none

end Sys2Proof.Machine
end

