-- ==== Sys2Proof/Machine/Event.lean ====
section
/-!
DEFINITION. The frame header decode (42_decoder.md R151) and the event a validated frame gives once its
payload has been decoded (R150).
-/

namespace Sys2Proof.Machine

/-- `Header(f)` (R151): the key-type byte is passed through (30_encoding.md R74), the serial is
little-endian, the command code and the checksum are big-endian. -/
def header (f : Bytes) : Header :=
  { keyType := byteAt f 4
    serial := BitVec.ofNat 64 (u64le f 5)
    password := slice f 13 19
    cmd := BitVec.ofNat 16 (frameCode f)
    payload := payloadOf f
    csum := BitVec.ofNat 16 (u16be f (f.length - 4)) }

/-- The kind reads at least one field: every kind but UNKNOWN (42_decoder.md R153; 60_exceptions.md R304). -/
def readsField (kind : Kind) : Bool :=
  match kind with
  | .loginBeacon => true
  | .loginResponse => true
  | .acStatus => true
  | .chargeStatus => true
  | .chargeStartAck => true
  | .chargeStopAck => true
  | .systemTime => true
  | .version => true
  | .outputAmps => true
  | .deviceName => true
  | .language => true
  | .temperatureUnit => true
  | .unknown => false

/-- The event of a valid frame `f` of a kind whose payload decode answered `r` (R150): `FRAME`, or
`DECODE_ERROR` with the command code and the frame bytes (60_exceptions.md R304). A frame with no payload
byte is a `DECODE_ERROR` of every kind that reads a field, whatever its payload decode answered: R150's
corner case, which a `NAME` of no bytes at offset 0 would else miss (DESIGN CHOICE between R150 and the
letter of R48 and R304, log 25; unsafe). -/
def frameEvent (kind : Kind) (f : Bytes) (r : Decoded Record) : Event :=
  match r with
  | .ok record =>
    if readsField kind = true ∧ payloadOf f = [] then .decodeError (header f).cmd .payloadShort f
    else .frame kind (header f) record
  | .error reason => .decodeError (header f).cmd reason f

end Sys2Proof.Machine
end

