-- ==== Sys2Proof/Machine/ChargeKinds.lean ====
section
/-!
DEFINITION. The charging kinds: AC status (codes 4 and 13), charge status (codes 5 and 6) and the charge
acknowledgements (codes 7 and 8) (43_decoder_charge.md).
-/

namespace Sys2Proof.Machine

/-- `Temp(raw)`: the sentinel 255 is tested before the formula (R184). -/
def temperature (raw : Nat) : Temperature :=
  if raw = 255 then { sentinel := true, centi := -100 }
  else { sentinel := false, centi := (raw : Int) - 20000 }

/-- The least set bit of `eb` below `w`, if any (R186). -/
def lowestBit (eb w : Nat) : Option Nat := (List.range w).find? fun i => eb.testBit i

/-- The highest set bit of `eb` below `w`, if any (R186). -/
def highestBit (eb w : Nat) : Option Nat := (List.range w).reverse.find? fun i => eb.testBit i

/-- `FirstSet(eb, W)`: 255 when no bit is set, else the index from the end `ERR_BIT_ORDER` names
(R186). -/
def firstSet (o : ErrBitOrder) (eb w : Nat) : Nat :=
  match o with
  | .lsbFirst =>
    match lowestBit eb w with
    | none => 255
    | some i => i
  | .msbFirst =>
    match highestBit eb w with
    | none => 255
    | some h => w - 1 - h

/-- `Power(v, a, ph)` in milliwatts: 0 if a reading of lines 1 to `ph` is 0, else the sum of the
products (R187). -/
def power (v a : PerLine Nat) (ph : Phases) : Nat :=
  let readings := (presentLines v ph).zip (presentLines a ph)
  if readings.any fun r => r.1 == 0 || r.2 == 0 then 0
  else (readings.map fun r => r.1 * r.2).sum

/-- `ChargingStatus(cu, pl)` (R188); `plugCu` is the Connected-Unlocked code. -/
def chargingStatus (plugCu : Byte) (cu pl : Nat) : Nat :=
  if cu = 13 then 1
  else if cu = 14 ∧ pl = plugCl then 2
  else if cu = 14 ∧ pl = plugCu.toNat then 3
  else if cu = 15 ∧ (pl = plugCl ∨ pl = plugCu.toNat) then 4
  else if cu = 17 then 5
  else if cu = 20 then 6
  else if cu = 12 then 7
  else if cu = 1 then 8
  else if cu = 10 then 9
  else if cu = 11 then 10
  else if cu = 2 ∨ cu = 3 then 11
  else 0

/-- Bytes of the error bitfield: 2 when the payload is shorter than 25 bytes, else 4 (R185). -/
def errorBytes (payloadLength : Nat) : Nat := if payloadLength < 25 then 2 else 4

/-- Each line's reading divided by `d`, exactly (R182, R183). -/
def scaleLines (x : PerLine Nat) (d : Nat) : PerLine Rat :=
  ⟨(x.l1 : Rat) / d, (x.l2 : Rat) / d, (x.l3 : Rat) / d⟩

/-- `ACDecode(p, ph)` (R181): every field of the layout is read whatever `ph` is. -/
def acDecode (c : Config) (p : Bytes) (ph : Phases) : Decoded AcRecord := do
  let v ← readLines p c.ac.v
  let a ← readLines p c.ac.a
  let e ← readU p c.ac.energy
  let ti ← readTemp p c.ac.tin
  let tx ← readTemp p c.ac.tout
  let ew := errorBytes p.length
  let eb ← readUInt p c.ac.errOff ew c.ac.errOrd
  let pl ← readByte p c.ac.plugOff
  let ou ← readByte p c.ac.outOff
  let cu ← readByte p c.ac.curOff
  return { vRaw := v, aRaw := a, energyRaw := e
           voltage := scaleLines v 10, amperage := scaleLines a 100, energy := (e : Rat) / 1000
           tIn := temperature ti, tOut := temperature tx
           errWidth := 8 * ew, errBits := eb, errIndex := firstSet c.errBitOrder eb (8 * ew)
           plugState := pl, outputState := ou, currentState := cu
           status := chargingStatus c.plugCu cu pl
           powerMw := power v a ph, powerKw := (power v a ph : Rat) / 1000000 }

/-- `Fee(raw)`: the raw value, the sentinel flag and the scaled value (R197). -/
def feeValue (raw : Nat) : FeeValue :=
  { raw := raw, sentinel := raw == 65535, value := (raw : Rat) / 100 }

/-- The fees in list order (R196). -/
def readFees (p : Bytes) : List FeeField → Decoded (List FeeValue)
  | [] => .ok []
  | d :: ds => do
    let raw ← readFee p d
    let rest ← readFees p ds
    return feeValue raw :: rest

/-- `ChargeDecode(p)` (R196). -/
def chargeDecode (c : Config) (p : Bytes) : Decoded ChargeRecord := do
  let se ← readField p c.cs.session
  let us ← readField p c.cs.user
  let r ← readByte p c.cs.resvOff
  let st ← readByte p c.cs.startOff
  let ct ← readByte p c.cs.ctypeOff
  let fees ← readFees p c.cs.fees
  return { sessionId := se, userId := us, reservation := r, start := st, chargeType := ct
           fees := fees }

/-- The payload decode of AC_STATUS, for codes 4 and 13 (R190, R191). -/
def decodeAcStatus (c : Config) (p : Bytes) (ph : Phases) : Decoded Record :=
  .acStatus <$> acDecode c p ph

/-- The payload decode of CHARGE_STATUS, for codes 5 and 6; `ph` is unused (R198, R199). -/
def decodeChargeStatus (c : Config) (p : Bytes) : Decoded Record := .chargeStatus <$> chargeDecode c p

/-- The payload decode of CHARGE_START_ACK (R200). -/
def decodeChargeStartAck (c : Config) (p : Bytes) : Decoded Record := do
  let rr ← readU p c.csa.result
  let er ← readU p c.csa.reason
  let am ← readU p c.csa.amps
  return .chargeStartAck { reservationResult := rr, errorReason := er, outputAmps := am }

/-- The payload decode of CHARGE_STOP_ACK (R201). -/
def decodeChargeStopAck (c : Config) (p : Bytes) : Decoded Record :=
  .chargeStopAck <$> readU p c.cstResult

/-- AC_STATUS, code 4 (R190). -/
def execAcStatus4 (ph : Phases) (f : Bytes) (s : State) : Result :=
  answerEvent (frameEvent .acStatus f (decodeAcStatus s.cfg (payloadOf f) ph)) s

/-- AC_STATUS, code 13 (R191). -/
def execAcStatus13 (ph : Phases) (f : Bytes) (s : State) : Result :=
  answerEvent (frameEvent .acStatus f (decodeAcStatus s.cfg (payloadOf f) ph)) s

/-- CHARGE_STATUS, code 5 (R198). -/
def execChargeStatus5 (_ph : Phases) (f : Bytes) (s : State) : Result :=
  answerEvent (frameEvent .chargeStatus f (decodeChargeStatus s.cfg (payloadOf f))) s

/-- CHARGE_STATUS, code 6 (R199). -/
def execChargeStatus6 (_ph : Phases) (f : Bytes) (s : State) : Result :=
  answerEvent (frameEvent .chargeStatus f (decodeChargeStatus s.cfg (payloadOf f))) s

/-- CHARGE_START_ACK, code 7 (R200). -/
def execChargeStartAck (_ph : Phases) (f : Bytes) (s : State) : Result :=
  answerEvent (frameEvent .chargeStartAck f (decodeChargeStartAck s.cfg (payloadOf f))) s

/-- CHARGE_STOP_ACK, code 8 (R201). -/
def execChargeStopAck (_ph : Phases) (f : Bytes) (s : State) : Result :=
  answerEvent (frameEvent .chargeStopAck f (decodeChargeStopAck s.cfg (payloadOf f))) s

end Sys2Proof.Machine
end

