-- ==== Sys2Proof/Machine/ConfigKinds.lean ====
section
/-!
DEFINITION. The configuration kinds: codes 257, 262, 263, 264, 271 and 274 (44_decoder_config.md).
-/

namespace Sys2Proof.Machine

/-- The payload decode of SYSTEM_TIME: `U(off, 4, LE)`, unsigned (R220). -/
def decodeSystemTime (c : Config) (p : Bytes) : Decoded Record :=
  .systemTime <$> readUInt p c.timeEpochOff 4 .le

/-- The payload decode of VERSION (R221). -/
def decodeVersion (c : Config) (p : Bytes) : Decoded Record := do
  let hw ← readField p c.version.hw
  let sw ← readField p c.version.sw
  let ft ← readUInt p c.version.featureOff 4 c.version.featureOrd
  return .version { hwVersion := hw, swVersion := sw, feature := ft }

/-- The payload decode of OUTPUT_AMPS: one byte, unscaled (R222). -/
def decodeOutputAmps (c : Config) (p : Bytes) : Decoded Record := .outputAmps <$> readByte p c.ampsOff

/-- The payload decode of DEVICE_NAME: the raw bytes (R223). -/
def decodeDeviceName (c : Config) (p : Bytes) : Decoded Record := .deviceName <$> readField p c.name

/-- The payload decode of LANGUAGE (R224). -/
def decodeLanguage (c : Config) (p : Bytes) : Decoded Record := .language <$> readU p c.langCode

/-- The payload decode of TEMPERATURE_UNIT (R225). -/
def decodeTemperatureUnit (c : Config) (p : Bytes) : Decoded Record :=
  .temperatureUnit <$> readU p c.tempuCode

/-- SYSTEM_TIME (R220). -/
def execSystemTime (_ph : Phases) (f : Bytes) (s : State) : Result :=
  answerEvent (frameEvent .systemTime f (decodeSystemTime s.cfg (payloadOf f))) s

/-- VERSION (R221). -/
def execVersion (_ph : Phases) (f : Bytes) (s : State) : Result :=
  answerEvent (frameEvent .version f (decodeVersion s.cfg (payloadOf f))) s

/-- OUTPUT_AMPS (R222). -/
def execOutputAmps (_ph : Phases) (f : Bytes) (s : State) : Result :=
  answerEvent (frameEvent .outputAmps f (decodeOutputAmps s.cfg (payloadOf f))) s

/-- DEVICE_NAME (R223). -/
def execDeviceName (_ph : Phases) (f : Bytes) (s : State) : Result :=
  answerEvent (frameEvent .deviceName f (decodeDeviceName s.cfg (payloadOf f))) s

/-- LANGUAGE (R224). -/
def execLanguage (_ph : Phases) (f : Bytes) (s : State) : Result :=
  answerEvent (frameEvent .language f (decodeLanguage s.cfg (payloadOf f))) s

/-- TEMPERATURE_UNIT (R225). -/
def execTemperatureUnit (_ph : Phases) (f : Bytes) (s : State) : Result :=
  answerEvent (frameEvent .temperatureUnit f (decodeTemperatureUnit s.cfg (payloadOf f))) s

end Sys2Proof.Machine
end

