-- ==== Sys2Proof/Machine/LoginKinds.lean ====
section
/-!
DEFINITION. The login kinds, command codes 1 and 2, and the unknown kind (42_decoder.md R153, R157 to R162).
-/

namespace Sys2Proof.Machine

/-- `PhaseCount(t)` (R157). -/
def phaseCount (t : Nat) : Phases :=
  if t ∈ [10, 11, 12, 13, 14, 15, 22, 23, 24, 25] then .three else .one

/-- `Compose(POWER_COMPOSE, b)` for 4 bytes (R162; log 20). -/
def composePower (c : PowerCompose) (b : Bytes) : Nat :=
  match c with
  | .be => u32be b 0
  | .le => u32le b 0
  | .wordswapBe => u16be b 2 * 65536 + u16be b 0
  | .wordswapLe => u16le b 0 * 65536 + u16le b 2
  | .custom => (Config.customPower b).toNat

/-- `LoginDecode(p)` (R159). -/
def loginDecode (c : Config) (p : Bytes) : Decoded LoginRecord := do
  let t ← readByte p c.login.typeOff
  let ma ← readField p c.login.manuf
  let mo ← readField p c.login.model
  let hw ← readField p c.login.hwver
  let pw ← readSpan p c.login.powerOff (.fixed 4)
  let mx ← readByte p c.login.maxAmpsOff
  return { type := t, phases := phaseCount t, manufacturer := ma, model := mo, hwVersion := hw
           powerRaw := composePower c.powerCompose pw, maxAmps := mx }

/-- The payload decode of LOGIN_BEACON; `ph` is unused (R160). -/
def decodeLoginBeacon (c : Config) (p : Bytes) : Decoded Record := .login <$> loginDecode c p

/-- The payload decode of LOGIN_RESPONSE: the layout of LOGIN_BEACON (R161). -/
def decodeLoginResponse (c : Config) (p : Bytes) : Decoded Record := .login <$> loginDecode c p

/-- The payload decode of UNKNOWN: an empty record, never an error (R153). -/
def decodeUnknown : Decoded Record := .ok .unknown

/-- LOGIN_BEACON (R160). -/
def execLoginBeacon (_ph : Phases) (f : Bytes) (s : State) : Result :=
  answerEvent (frameEvent .loginBeacon f (decodeLoginBeacon s.cfg (payloadOf f))) s

/-- LOGIN_RESPONSE (R161). -/
def execLoginResponse (_ph : Phases) (f : Bytes) (s : State) : Result :=
  answerEvent (frameEvent .loginResponse f (decodeLoginResponse s.cfg (payloadOf f))) s

/-- UNKNOWN (R153; 30_encoding.md R73, R76). -/
def execUnknown (_ph : Phases) (f : Bytes) (s : State) : Result :=
  answerEvent (frameEvent .unknown f decodeUnknown) s

end Sys2Proof.Machine
end

