-- ==== Sys2Proof/Machine/Codec.lean ====
section
/-!
DEFINITION. The decoder (42_decoder.md R150 to R152) and the encoder (45_encoder.md): `KindDecode`,
`Process`, DECODE and ENCODE.
-/

namespace Sys2Proof.Machine

/-- `KindDecode(kind, p, ph)` (R150). -/
def kindDecode (c : Config) (kind : Kind) (p : Bytes) (ph : Phases) : Decoded Record :=
  match kind with
  | .loginBeacon => decodeLoginBeacon c p
  | .loginResponse => decodeLoginResponse c p
  | .acStatus => decodeAcStatus c p ph
  | .chargeStatus => decodeChargeStatus c p
  | .chargeStartAck => decodeChargeStartAck c p
  | .chargeStopAck => decodeChargeStopAck c p
  | .systemTime => decodeSystemTime c p
  | .version => decodeVersion c p
  | .outputAmps => decodeOutputAmps c p
  | .deviceName => decodeDeviceName c p
  | .language => decodeLanguage c p
  | .temperatureUnit => decodeTemperatureUnit c p
  | .unknown => decodeUnknown

/-- `Process(f, ph)`: validate, dispatch on the command code, decode the payload; one event (R150;
60_exceptions.md R305). DECODE and FEED share it. -/
def process (c : Config) (ph : Phases) (f : Bytes) : Event :=
  match validate f with
  | .drop reason => .drop reason f
  | .valid =>
    let kind := dispatchKind (frameCode f)
    frameEvent kind f (kindDecode c kind (payloadOf f) ph)

/-- DECODE (R150): a phase count that is not 1 or 3 is rejected (30_encoding.md R62 check 3). -/
def execDecode (ph : Byte) (f : Bytes) (s : State) : Result :=
  match phasesOf ph with
  | none => rejectRequest .badOperand s
  | some p => answerEvent (process s.cfg p f) s

/-- ENCODE (R250): a payload over `ENC_MAX_PAYLOAD` is rejected (R253; 30_encoding.md R62 check 5). -/
def execEncode (serial : BitVec 64) (password : Bytes) (cmd : BitVec 16) (payload : Bytes)
    (s : State) : Result :=
  if s.cfg.encMaxPayload < payload.length then rejectRequest .encTooLong s
  else answerValue (.frame (buildFrame serial.toNat password cmd.toNat payload)) s

end Sys2Proof.Machine
end

