-- ==== Sys2Proof/Machine/Reassembler.lean ====
section
/-!
DEFINITION. The Reassembler's operations FEED and RESET (40_reassembler.md R100 to R110).
-/

namespace Sys2Proof.Machine

/-- `IsHeader(w)`: at least two bytes, `06 01` first (R101). -/
def isHeader (w : Bytes) : Bool :=
  match w with
  | a :: b :: _ => a == 0x06 && b == 0x01
  | _ => false

/-- Place one work sequence: `RA_BUF` and `RA_LEN` after the start of a new frame (R102) or a
continuation (R103). -/
def placeWork (buf : Bytes) (len : Option Nat) (work : Bytes) : Bytes × Option Nat :=
  if isHeader work then
    (work, if 4 ≤ work.length then some (byteAt work 3).toNat else none)
  else
    let joined := buf ++ work
    (joined, some (len.getD joined.length))

/-- What a FEED leaves: its events in cut order, `RA_BUF` and `RA_LEN`. -/
structure Placed where
  events : List Event
  buf : Bytes
  len : Option Nat
deriving DecidableEq, Repr, Inhabited

/-- FEED's loop over the bytes still to place (R100, R102 to R105). `judge` is `Process` on a candidate.
The first argument bounds the passes; R108 says the loop ends by itself, and `execFeed` gives a bound
that it never meets (log 10). -/
def feedLoop (judge : Bytes → Event) : Nat → Bytes → Option Nat → Bytes → Placed
  | 0, buf, len, _ => ⟨[], buf, len⟩
  | fuel + 1, buf, len, work =>
    match placeWork buf len work with
    | (b, none) => ⟨[], b, none⟩
    | (b, some l) =>
      if l = 0 then ⟨[.drop .zeroLength b], [], none⟩
      else if l ≤ b.length then
        let after :=
          if b.drop l = [] then ⟨[], [], none⟩ else feedLoop judge fuel [] none (b.drop l)
        { after with events := judge (b.take l) :: after.events }
      else ⟨[], b, some l⟩

/-- Place one delivery (R100): an empty one changes nothing (R106). -/
def feedChunk (judge : Bytes → Event) (buf : Bytes) (len : Option Nat) (chunk : Bytes) : Placed :=
  if chunk = [] then ⟨[], buf, len⟩
  else feedLoop judge (buf.length + chunk.length) buf len chunk

/-- FEED (R100): a phase count that is not 1 or 3 is rejected, then a delivery over `CHUNK_MAX`
(30_encoding.md R62 checks 3 and 4; R107), before any state change. -/
def execFeed (ph : Byte) (chunk : Bytes) (s : State) : Result :=
  match phasesOf ph with
  | none => rejectRequest .badOperand s
  | some p =>
    if s.cfg.chunkMax < chunk.length then rejectRequest .chunkTooLong s
    else
      let after := feedChunk (process s.cfg p) s.raBuf s.raLen chunk
      .next ((s.setRa after.buf after.len).respond (okEvents after.events))

/-- RESET (R110): discard the pending frame, with no event. -/
def execReset (s : State) : Result := .next ((s.setRa [] none).respond (okEvents []))

end Sys2Proof.Machine
end

