-- ==== Sys2Proof/Machine/Validator.lean ====
section
/-!
DEFINITION. The Validator's operations CSUM_DEC, CSUM_ENC and VALIDATE (41_validator.md), and a request
with a reserved OP (30_encoding.md R63).
-/

namespace Sys2Proof.Machine

/-- CSUM_DEC (R130). -/
def execCsumDec (data : Bytes) (s : State) : Result :=
  answerValue (.checksum (BitVec.ofNat 16 (csumDec data))) s

/-- CSUM_ENC (R131). -/
def execCsumEnc (data : Bytes) (s : State) : Result :=
  answerValue (.checksum (BitVec.ofNat 16 (csumEnc data))) s

/-- VALIDATE (R132). -/
def execValidate (data : Bytes) (s : State) : Result := answerValue (.verdict (validate data)) s

/-- A reserved OP is rejected with `BAD_OP` and has no other effect (30_encoding.md R63). -/
def execReservedOp (_op : Byte) (_operands : Bytes) (s : State) : Result := rejectRequest .badOp s

end Sys2Proof.Machine
end

