-- ==== Sys2Proof/Machine/Dispatch.lean ====
section
/-!
DEFINITION. `exec`: one arm per constructor of `Instr`, each one direct call of that instruction's meaning.
-/

namespace Sys2Proof.Machine

def exec (i : Instr) (s : State) : Host.Outcome State Fault Refusal :=
  match i with
  | .reset => Sys2Proof.Machine.execReset s
  | .feed ph chunk => Sys2Proof.Machine.execFeed ph chunk s
  | .encode serial password cmd payload => Sys2Proof.Machine.execEncode serial password cmd payload s
  | .validate data => Sys2Proof.Machine.execValidate data s
  | .decode ph f => Sys2Proof.Machine.execDecode ph f s
  | .csumDec data => Sys2Proof.Machine.execCsumDec data s
  | .csumEnc data => Sys2Proof.Machine.execCsumEnc data s
  | .reservedOp op operands => Sys2Proof.Machine.execReservedOp op operands s
  | .loginBeacon ph f => Sys2Proof.Machine.execLoginBeacon ph f s
  | .loginResponse ph f => Sys2Proof.Machine.execLoginResponse ph f s
  | .acStatus4 ph f => Sys2Proof.Machine.execAcStatus4 ph f s
  | .chargeStatus5 ph f => Sys2Proof.Machine.execChargeStatus5 ph f s
  | .chargeStatus6 ph f => Sys2Proof.Machine.execChargeStatus6 ph f s
  | .chargeStartAck ph f => Sys2Proof.Machine.execChargeStartAck ph f s
  | .chargeStopAck ph f => Sys2Proof.Machine.execChargeStopAck ph f s
  | .acStatus13 ph f => Sys2Proof.Machine.execAcStatus13 ph f s
  | .systemTime ph f => Sys2Proof.Machine.execSystemTime ph f s
  | .version ph f => Sys2Proof.Machine.execVersion ph f s
  | .outputAmps ph f => Sys2Proof.Machine.execOutputAmps ph f s
  | .deviceName ph f => Sys2Proof.Machine.execDeviceName ph f s
  | .language ph f => Sys2Proof.Machine.execLanguage ph f s
  | .temperatureUnit ph f => Sys2Proof.Machine.execTemperatureUnit ph f s
  | .unknown ph f => Sys2Proof.Machine.execUnknown ph f s

end Sys2Proof.Machine
end

