-- ==== Sys2Proof/Machine/Step.lean ====
section
/-!
DEFINITION. One step of the machine: one host operation, whole (20_memory.md R49). The step takes the
oldest request of the host port, decodes it and runs it; a request the decoder refuses is rejected with
its code (30_encoding.md R62). With no request issued, nothing happens (log 3).
-/

namespace Sys2Proof.Machine

/-- One step: serve the oldest request. -/
def step (s : State) : Host.Outcome State Fault Refusal :=
  match s.fetch with
  | none => .next s
  | some (q, s') =>
    match decode q with
    | .ok i => exec i s'
    | .error c => rejectRequest c s'

/-- The state in which the next step serves the request of an opcode-table row (log 6). -/
def State.withFetchWord (s : State) (nbits w : Nat) : State :=
  { s with inbox := tableRequest nbits w :: s.inbox }

end Sys2Proof.Machine
end

