-- ==== Sys2Proof/Machine/Assembly.lean ====
section
/-!
DEFINITION. The written form of a host operation (30_encoding.md R65). A notation for test programs: no
meaning reads it.
-/

namespace Sys2Proof.Machine

/-- A hex digit of a value below 16, in capitals. -/
def hexDigit (n : Nat) : Char := ("0123456789ABCDEF".toList).getD n '0'

/-- A byte as a pair of hex digits. -/
def hexByte (b : Byte) : List Char := [hexDigit (b.toNat / 16), hexDigit (b.toNat % 16)]

/-- Hex pairs separated by spaces; `-` is an empty byte list (R65). -/
def hexBytes (b : Bytes) : List Char :=
  match b with
  | [] => ['-']
  | _ => List.intercalate [' '] (b.map hexByte)

/-- `0x` and sixteen hex digits (R65). -/
def hexSerial (v : BitVec 64) : List Char :=
  "0x".toList ++ (le64 v.toNat).reverse.flatMap hexByte

/-- A phase-count operand. -/
def asmPhase (ph : Byte) : List Char := "ph=".toList ++ Nat.toDigits 10 ph.toNat

/-- The line of a FEED or DECODE operand pair. -/
def asmPhData (mnemonic : String) (ph : Byte) (d : Bytes) : List Char :=
  mnemonic.toList ++ " ".toList ++ asmPhase ph ++ ", ".toList ++ hexBytes d

/-- The line of a DECODE that carries a validated frame. -/
def asmFrame (ph : Phases) (f : Bytes) : List Char := asmPhData "DECODE" (phasesByte ph) f

/-- The line R65 writes for an instruction. A reserved OP has no written form in R65: its request bytes
are written out. -/
def asmLine (i : Instr) : List Char :=
  match i with
  | .reset => "RESET".toList
  | .feed ph chunk => asmPhData "FEED" ph chunk
  | .encode serial password cmd payload =>
    "ENCODE serial=".toList ++ hexSerial serial ++ ", pw=".toList ++ hexBytes password
      ++ ", cmd=".toList ++ Nat.toDigits 10 cmd.toNat ++ ", payload=".toList ++ hexBytes payload
  | .validate data => "VALIDATE ".toList ++ hexBytes data
  | .decode ph f => asmPhData "DECODE" ph f
  | .csumDec data => "CSUM.DEC ".toList ++ hexBytes data
  | .csumEnc data => "CSUM.ENC ".toList ++ hexBytes data
  | .reservedOp op operands => hexBytes (op :: operands)
  | .loginBeacon ph f => asmFrame ph f
  | .loginResponse ph f => asmFrame ph f
  | .acStatus4 ph f => asmFrame ph f
  | .chargeStatus5 ph f => asmFrame ph f
  | .chargeStatus6 ph f => asmFrame ph f
  | .chargeStartAck ph f => asmFrame ph f
  | .chargeStopAck ph f => asmFrame ph f
  | .acStatus13 ph f => asmFrame ph f
  | .systemTime ph f => asmFrame ph f
  | .version ph f => asmFrame ph f
  | .outputAmps ph f => asmFrame ph f
  | .deviceName ph f => asmFrame ph f
  | .language ph f => asmFrame ph f
  | .temperatureUnit ph f => asmFrame ph f
  | .unknown ph f => asmFrame ph f

end Sys2Proof.Machine
end

