-- ==== Sys2Proof/Machine/Names.lean ====
section
/-!
DEFINITION. The name view of a record (42_decoder.md R155, R156): display names, trimmed strings and the
rendered error bits. No meaning reads it; a host computes it from a `FRAME` event and the configuration.
-/

namespace Sys2Proof.Machine

/-- The placeholder of a code with no entry: `Unknown ` and the code's decimal digits (R155). -/
def placeholder (code : Nat) : String := "Unknown " ++ toString code

/-- `Lookup(T, c)` for an ordered list indexed from 0 (R155). -/
def lookupList (t : List String) (code : Nat) : String := (t[code]?).getD (placeholder code)

/-- `Lookup(T, c)` for a finite map from code to name (R155). -/
def lookupMap (t : List (Nat × String)) (code : Nat) : String := (t.lookup code).getD (placeholder code)

/-- The description of a charging status: `no status` for 0, else `STATUS_NAMES`, whose first entry is
the name of status 1 (R188, R10; log 8). -/
def statusName (t : List String) (status : Nat) : String :=
  if status = 0 then "no status" else (t[status - 1]?).getD (placeholder status)

/-- The error description (R186). -/
def errorName (t : List String) (index : Nat) : String :=
  if index = 255 then "no error" else lookupList t index

/-- The error bitfield as `width` binary digits, most significant first (R185). -/
def errorBitString (bits width : Nat) : List Char :=
  (List.range width).reverse.map fun i => if bits.testBit i then '1' else '0'

/-- The names and strings that stand for a record's codes and `STR` fields (R156). -/
inductive NameView
  | login (manufacturer model hwVersion : Bytes)
  | acStatus (plug output current error status : String) (errorBits : List Char)
  | chargeStartAck (reservation reason : String)
  | chargeStopAck (result : String)
  | version (hwVersion swVersion : Bytes)
  | deviceName (name : Bytes)
  | language (name : String)
  | temperatureUnit (name : String)
  /-- A kind with no enumerated code and no `STR` field. -/
  | plain
deriving DecidableEq, Repr

/-- The name view of a record (R156). -/
def nameView (c : Config) (r : Record) : NameView :=
  match r with
  | .login x => .login (trim c.nulTrim x.manufacturer) (trim c.nulTrim x.model)
      (trim c.nulTrim x.hwVersion)
  | .acStatus x => .acStatus (lookupList c.plugNames x.plugState)
      (lookupList c.outputNames x.outputState) (lookupList c.currentNames x.currentState)
      (errorName c.errorNames x.errIndex) (statusName c.statusNames x.status)
      (errorBitString x.errBits x.errWidth)
  | .chargeStatus _ => .plain
  | .chargeStartAck x => .chargeStartAck (lookupList c.resvResultNames x.reservationResult)
      (lookupList c.errReasonNames x.errorReason)
  | .chargeStopAck x => .chargeStopAck (lookupList c.stopResultNames x)
  | .systemTime _ => .plain
  | .version x => .version (trim c.nulTrim x.hwVersion) (trim c.nulTrim x.swVersion)
  | .outputAmps _ => .plain
  | .deviceName x => .deviceName (trim c.nulTrim x)
  | .language x => .language (lookupMap c.langNames x)
  | .temperatureUnit x => .temperatureUnit (lookupMap c.tempuNames x)
  | .unknown => .plain

end Sys2Proof.Machine
end

