-- ==== Sys2Proof/Machine/Pseudo.lean ====
section
/-!
DEFINITION. The pseudo-operations FEEDSPLIT and LOOPBACK (30_encoding.md R66). They expand to host operations
and are no operation of the engine.
-/

namespace Sys2Proof.Machine

/-- The pieces `b[0:k1], b[k1:k2], …, b[klast:]` (R66). -/
def cutAt (b : Bytes) (cuts : List Nat) : List Bytes :=
  List.zipWith (slice b) (0 :: cuts) (cuts ++ [b.length])

/-- `FEEDSPLIT ph=p, k1, k2, …, b`: one FEED for each piece (R66). -/
def feedSplit (ph : Byte) (cuts : List Nat) (b : Bytes) : List Instr :=
  (cutAt b cuts).map (Instr.feed ph)

/-- The frame that the latest response returned, if it returned one. -/
def State.latestFrame (s : State) : Option Bytes :=
  match s.responses.getLast? with
  | some { value := some (.frame f), .. } => some f
  | _ => none

/-- `LOOPBACK ph=p, …`: the ENCODE, then the FEED of the frame its response holds (R66). A rejected
ENCODE returns no frame, and there is nothing to feed. -/
def execLoopback (ph : Byte) (serial : BitVec 64) (password : Bytes) (cmd : BitVec 16)
    (payload : Bytes) (s : State) : Result :=
  match execEncode serial password cmd payload s with
  | .next t =>
    match t.latestFrame with
    | some f => execFeed ph f t
    | none => .next t
  | .fault r => .fault r
  | .refused r => .refused r

end Sys2Proof.Machine
end

