-- ==== Sys2Proof/Safety.lean ====
section
/-!
DEFINITION. What counts as a safe state and a safe run: the Reassembler's invariant between operations
(10_state.md R27), the host's phase-count duty (70_reset_and_hazards.md R336(e)), and what counts as a
successfully decoded frame (60_exceptions.md R310).
-/

namespace Sys2Proof.Machine

/-- R27: IDLE; or a two- or three-byte header with no length; or a header of at least four bytes whose
declared length, 5 to 255, is not yet reached. -/
def raInv (buf : Bytes) (len : Option Nat) : Bool :=
  match len with
  | none =>
    decide (buf = []) || (isHeader buf && (buf.length == 2 || buf.length == 3))
  | some l =>
    decide (5 ≤ l) && decide (l ≤ 255) && isHeader buf && (byteAt buf 3).toNat == l
      && decide (4 ≤ buf.length) && decide (buf.length < l)

/-- The invariant of the machine between operations: the Reassembler's state is one of R27's three, and
the configuration is one that R8 and R10 admit. -/
def State.inv (s : State) : Bool := raInv s.raBuf s.raLen && s.cfg.wf

/-- Where each field of a kind ends in a payload of `n` bytes: the least payload length the field fits
in (20_memory.md R48; R158, R180, R185, R195, R200, R201, R220 to R225). -/
def fieldEnds (c : Config) (kind : Kind) (n : Nat) : List Nat :=
  let u (d : UField) := d.off + d.width.bytes
  let span (d : SpanField) := extentEnd d.off d.extent
  let login :=
    [c.login.typeOff + 1, span c.login.manuf, span c.login.model, span c.login.hwver,
      c.login.powerOff + 4, c.login.maxAmpsOff + 1]
  match kind with
  | .loginBeacon => login
  | .loginResponse => login
  | .acStatus =>
    [u c.ac.v.l1, u c.ac.v.l2, u c.ac.v.l3, u c.ac.a.l1, u c.ac.a.l2, u c.ac.a.l3, u c.ac.energy,
      c.ac.tin.off + c.ac.tin.width.width.bytes, c.ac.tout.off + c.ac.tout.width.width.bytes,
      c.ac.errOff + errorBytes n, c.ac.plugOff + 1, c.ac.outOff + 1, c.ac.curOff + 1]
  | .chargeStatus =>
    [span c.cs.session, span c.cs.user, c.cs.resvOff + 1, c.cs.startOff + 1, c.cs.ctypeOff + 1]
      ++ c.cs.fees.map fun d => d.off + 2
  | .chargeStartAck => [u c.csa.result, u c.csa.reason, u c.csa.amps]
  | .chargeStopAck => [u c.cstResult]
  | .systemTime => [c.timeEpochOff + 4]
  | .version => [span c.version.hw, span c.version.sw, c.version.featureOff + 4]
  | .outputAmps => [c.ampsOff + 1]
  | .deviceName => [span c.name]
  | .language => [u c.langCode]
  | .temperatureUnit => [u c.tempuCode]
  | .unknown => []

/-- Every field of the kind fits in a payload of `n` bytes (R48, R304). -/
def fieldsFit (c : Config) (kind : Kind) (n : Nat) : Bool := (fieldEnds c kind n).all fun e => decide (e ≤ n)

/-- A payload of `n` bytes decodes as the kind: every field fits, and the payload is not empty unless the
kind reads no field (42_decoder.md R150, corner cases; log 25). -/
def payloadDecodes (c : Config) (kind : Kind) (n : Nat) : Bool :=
  fieldsFit c kind n && (!readsField kind || decide (0 < n))

/-- The length of a request agrees with its format: the fixed part is there, and the total is the one R61
gives for the OP byte `op` (R62 check 2). -/
def lengthAgrees (op : Nat) (q : Bytes) : Bool :=
  match op with
  | 1 => q.length == 1
  | 2 => decide (4 ≤ q.length) && q.length == 4 + u16be q 2
  | 3 => decide (19 ≤ q.length) && q.length == 19 + u16be q 17
  | 4 => decide (3 ≤ q.length) && q.length == 3 + u16be q 1
  | 5 => decide (4 ≤ q.length) && q.length == 4 + u16be q 2
  | 6 => decide (3 ≤ q.length) && q.length == 3 + u16be q 1
  | 7 => decide (3 ≤ q.length) && q.length == 3 + u16be q 1
  | _ => false

/-- The five request checks in their order: the code of the first that fails, none when the request is
well-formed (30_encoding.md R62). -/
def requestCheck (c : Config) (q : Bytes) : Option RejectCode :=
  match q with
  | [] => some .badOp
  | op :: _ =>
    let n := op.toNat
    if n = 0 ∨ 8 ≤ n then some .badOp
    else if lengthAgrees n q = false then some .badOperand
    else if (n = 2 ∨ n = 5) ∧ (byteAt q 1).toNat ≠ 1 ∧ (byteAt q 1).toNat ≠ 3 then some .badOperand
    else if n = 2 ∧ c.chunkMax < u16be q 2 then some .chunkTooLong
    else if n = 3 ∧ c.encMaxPayload < u16be q 17 then some .encTooLong
    else none

/-- The operations that read and write no state of the engine: all but FEED and RESET (10_state.md R23,
R30). -/
def stateless (i : Instr) : Bool :=
  match i with
  | .reset => false
  | .feed _ _ => false
  | .encode _ _ _ _ => true
  | .validate _ => true
  | .decode _ _ => true
  | .csumDec _ => true
  | .csumEnc _ => true
  | .reservedOp _ _ => true
  | .loginBeacon _ _ => true
  | .loginResponse _ _ => true
  | .acStatus4 _ _ => true
  | .chargeStatus5 _ _ => true
  | .chargeStatus6 _ _ => true
  | .chargeStartAck _ _ => true
  | .chargeStopAck _ _ => true
  | .acStatus13 _ _ => true
  | .systemTime _ _ => true
  | .version _ _ => true
  | .outputAmps _ _ => true
  | .deviceName _ _ => true
  | .language _ _ => true
  | .temperatureUnit _ _ => true
  | .unknown _ _ => true

/-- A step that does not stop the machine. Every step of the engine is one (60_exceptions.md R306). -/
def Continues (r : Result) : Prop := ∃ t, r = .next t

/-- A successfully decoded frame, for the consumer's liveness watchdog: every `FRAME` event, of any kind
(R310). -/
def countsAsDecoded (e : Event) : Bool :=
  match e with
  | .frame _ _ _ => true
  | .drop _ _ => false
  | .decodeError _ _ _ => false

/-- The phase count a login event tells, if the event is one (R159). -/
def loginPhases (e : Event) : Option Phases :=
  match e with
  | .frame _ _ (.login r) => some r.phases
  | _ => none

/-- The phase count the host owes the engine after a history of operations and their responses: the
`phases` of the most recent login event since the last RESET, 1 when there is none (R336(e)). -/
def dutyPhases (history : List (Instr × Response)) : Phases :=
  history.foldl
    (fun ph step =>
      match step.1 with
      | .reset => .one
      | _ => (step.2.events.reverse.findSome? loginPhases).getD ph)
    .one

end Sys2Proof.Machine
end

