-- ==== Sys2Proof/Certificates/Slice0/Obligations.lean ====
section
/-!
DEFINITION. The statements for the provers. A response is written out as the record R64 names; a state
that a statement does not mention is unchanged because the whole next state is written out.
-/

open Sys2Proof Sys2Proof.Machine

/-! ### Encoding -/

/-- Decoding the request of a well-formed instruction gives the instruction back: no operand bit of R61 is
dropped, for every operand at every value the formats admit. -/
def Obligations.DecodeOfEncodeIsTheInstruction : Prop :=
  ∀ i : Instr, i.wellFormed = true → decode (encode i) = .ok i

/-- A request the decoder accepts is the request of the instruction it answers, and that instruction is
well-formed: no two requests are one instruction, and none decodes to an ill-formed term. -/
def Obligations.EncodeOfDecodeIsTheRequest : Prop :=
  ∀ (q : Bytes) (i : Instr), decode q = .ok i → i.wellFormed = true ∧ encode i = q

/-- A few requests written out from R61 decode to what they stand for (V-HOST-3, V-HOST-10, V-ENC-1, V-DEC-4
and V-HOST-2 of 95_test_vectors.md). -/
def Obligations.WrittenRequestsDecode : Prop :=
  decode [0x01] = .ok .reset ∧ decode [0x06, 0x00, 0x00] = .ok (.csumDec []) ∧
    decode [0x03, 0x08, 0x07, 0x06, 0x05, 0x04, 0x03, 0x02, 0x01, 0x31, 0x32, 0x33, 0x34, 0x35, 0x36,
        0x00, 0x01, 0x00, 0x00] =
      .ok (.encode 0x0102030405060708 [0x31, 0x32, 0x33, 0x34, 0x35, 0x36] 1 []) ∧
    decode [0x02, 0x03, 0x00, 0x02, 0xAA, 0xBB] = .ok (.feed 3 [0xAA, 0xBB]) ∧
    decode [0x08, 0x55] = .ok (.reservedOp 0x08 [0x55])

/-- R72, R152: the fourteen assigned command codes, and UNKNOWN for every other value. -/
def Obligations.DispatchFollowsTheCommandCodeMap : Prop :=
  [1, 2, 4, 13, 5, 6, 7, 8, 257, 262, 263, 264, 271, 274].map dispatchKind =
      [.loginBeacon, .loginResponse, .acStatus, .acStatus, .chargeStatus, .chargeStatus,
        .chargeStartAck, .chargeStopAck, .systemTime, .version, .outputAmps, .deviceName, .language,
        .temperatureUnit] ∧
    ∀ cmd : Nat, cmd ∉ [1, 2, 4, 13, 5, 6, 7, 8, 257, 262, 263, 264, 271, 274] →
      dispatchKind cmd = .unknown

/-! ### The step -/

/-- A step runs the decoded instruction: when the oldest request is that of a well-formed instruction, the
step is that instruction on the state without the request. -/
def Obligations.StepRunsTheDecodedInstruction : Prop :=
  ∀ (s : State) (i : Instr) (rest : List Bytes), i.wellFormed = true → s.inbox = encode i :: rest →
    step s = exec i { s with inbox := rest }

/-- With no request issued a step changes nothing (the model's choice, log 3; R334: the engine has no busy
state). -/
def Obligations.StepWithoutRequestChangesNothing : Prop :=
  ∀ s : State, s.inbox = [] → step s = .next s

/-- R62, R63: the checks in their order. The first that fails rejects the request with its code, and nothing
else changes; a request that passes them all is answered `OK`. -/
def Obligations.RequestChecksDecideRejection : Prop :=
  ∀ (s : State) (q : Bytes) (rest : List Bytes), s.inbox = q :: rest →
    (∀ c, requestCheck s.cfg q = some c →
      step s = .next { s with inbox := rest,
                              responses := s.responses ++ [{ status := .reject c, events := [],
                                                             value := none }] }) ∧
    (requestCheck s.cfg q = none →
      ∃ t r, step s = .next t ∧ t.responses = s.responses ++ [r] ∧ r.status = .ok)

/-- R306, R334: no step stops the machine, from any state. -/
def Obligations.EveryStepContinues : Prop := ∀ s : State, Continues (step s)

/-- R64, R53: a step that serves a request takes exactly that request and returns exactly one response,
after those returned before. -/
def Obligations.EachRequestGetsOneResponse : Prop :=
  ∀ (s t : State) (q : Bytes) (rest : List Bytes), s.inbox = q :: rest → step s = .next t →
    t.inbox = rest ∧ ∃ r, t.responses = s.responses ++ [r]

/-- R28: no step writes the configuration. -/
def Obligations.NoStepWritesTheConfiguration : Prop :=
  ∀ s t : State, step s = .next t → t.cfg = s.cfg

/-! ### Reset and the invariant -/

/-- R330: after power-on nothing is pending and the phase is IDLE; the configuration is the build-time
one. -/
def Obligations.PowerOnIsIdle : Prop :=
  State.reset.raBuf = [] ∧ State.reset.raLen = none ∧ State.reset.phase = some .idle ∧
    State.reset.cfg = Config.build

/-- The invariant holds after power-on. That the build-time configuration meets R8 and R10 is the model's
own reading of a complete configuration (log 4). -/
def Obligations.PowerOnMeetsTheInvariant : Prop := State.reset.inv = true

/-- Every step keeps R27's invariant of the Reassembler (and the configuration well-formed), from every
state that meets it. -/
def Obligations.StepKeepsTheInvariant : Prop :=
  ∀ s t : State, s.inv = true → step s = .next t → t.inv = true

/-- R26, R27: under the invariant the engine is in exactly one of the three phases, told by `RA_BUF` and
`RA_LEN`, and holds at most 254 bytes. -/
def Obligations.InvariantGivesPhaseAndBound : Prop :=
  ∀ s : State, raInv s.raBuf s.raLen = true →
    s.raBuf.length ≤ 254 ∧
      ((s.phase = some .idle ∧ s.raBuf = [] ∧ s.raLen = none) ∨
        (s.phase = some .hdrNoLen ∧ s.raLen = none ∧ (s.raBuf.length = 2 ∨ s.raBuf.length = 3)) ∨
        ∃ l, s.phase = some (.collecting l) ∧ s.raLen = some l ∧ 5 ≤ l ∧ l ≤ 255 ∧
          s.raBuf.take 2 = [0x06, 0x01] ∧ s.raBuf[3]?.map BitVec.toNat = some l ∧ 4 ≤ s.raBuf.length ∧
          s.raBuf.length < l)

/-- R110: RESET discards the pending frame with no event, whatever was pending. -/
def Obligations.ResetDiscardsThePendingFrame : Prop :=
  decode [0x01] = .ok .reset ∧
    ∀ s : State,
      exec .reset s =
        .next { s with raBuf := [], raLen := none,
                       responses := s.responses ++ [{ status := .ok, events := [], value := none }] }

/-- R331, R23: what an operation answers, and what it leaves in the Reassembler, depend on `RA_BUF`, `RA_LEN`
and the configuration alone. So after RESET no operation can tell it from power-on. -/
def Obligations.OperationsSeeOnlyTheReassemblerAndTheConfiguration : Prop :=
  ∀ (i : Instr) (s t : State), s.raBuf = t.raBuf → s.raLen = t.raLen → s.cfg = t.cfg →
    ∃ buf len r,
      exec i s = .next { s with raBuf := buf, raLen := len, responses := s.responses ++ [r] } ∧
        exec i t = .next { t with raBuf := buf, raLen := len, responses := t.responses ++ [r] }

/-- R30: the operations other than FEED and RESET write only their response, and the response is the same
whatever state the Reassembler is in. -/
def Obligations.StatelessOperationsWriteOnlyTheirResponse : Prop :=
  ∀ (i : Instr) (s t : State), stateless i = true → s.cfg = t.cfg →
    ∃ r, exec i s = .next { s with responses := s.responses ++ [r] } ∧
      exec i t = .next { t with responses := t.responses ++ [r] }

/-- R53: a stateless operation may be moved past any operation: the Reassembler ends the same, and each
gives the same response. -/
def Obligations.StatelessOperationsCommute : Prop :=
  ∀ (i j : Instr) (s : State), stateless i = true →
    ∃ a b buf len,
      (∃ m, exec i s = .next m ∧ exec j m =
        .next { s with raBuf := buf, raLen := len, responses := s.responses ++ [a, b] }) ∧
      ∃ m, exec j s = .next m ∧ exec i m =
        .next { s with raBuf := buf, raLen := len, responses := s.responses ++ [b, a] }

/-! ### Validator -/

/-- R130: CSUM_DEC returns the sum of the bytes modulo 65536. -/
def Obligations.CsumDecIsTheSumModulo65536 : Prop :=
  (∀ data : Bytes, data.length < 65536 →
      decode ([0x06] ++ be16 data.length ++ data) = .ok (.csumDec data)) ∧
    ∀ (s : State) (data : Bytes),
      exec (.csumDec data) s =
        .next { s with responses := s.responses ++
          [{ status := .ok, events := [],
             value := some (.checksum (BitVec.ofNat 16 ((data.map BitVec.toNat).sum % 65536))) }] }

/-- R131: CSUM_ENC returns the sum of the bytes modulo 65535, never 65535. -/
def Obligations.CsumEncIsTheSumModulo65535 : Prop :=
  (∀ data : Bytes, data.length < 65536 →
      decode ([0x07] ++ be16 data.length ++ data) = .ok (.csumEnc data)) ∧
    ∀ (s : State) (data : Bytes),
      (data.map BitVec.toNat).sum % 65535 ≤ 65534 ∧
      exec (.csumEnc data) s =
        .next { s with responses := s.responses ++
          [{ status := .ok, events := [],
             value := some (.checksum (BitVec.ofNat 16 ((data.map BitVec.toNat).sum % 65535))) }] }

/-- R132, R133: VALIDATE returns the first failing check in the order SHORT, HEADER, LENGTH, TRAILER,
CHECKSUM, and VALID when none fails. -/
def Obligations.ValidateReportsTheFirstFailingCheck : Prop :=
  ∀ (s : State) (f : Bytes),
    let n := f.length
    let verdict : Verdict :=
      if n < 25 then .drop .short
      else if f.take 2 ≠ [0x06, 0x01] then .drop .header
      else if f[3]?.map BitVec.toNat ≠ some (n % 256) then .drop .length
      else if f.drop (n - 2) ≠ [0x0F, 0x02] then .drop .trailer
      else if beValue ((f.drop (n - 4)).take 2) ≠ ((f.take (n - 4)).map BitVec.toNat).sum % 65536 then
        .drop .checksum
      else .valid
    exec (.validate f) s =
      .next { s with responses := s.responses ++
        [{ status := .ok, events := [], value := some (.verdict verdict) }] }

/-- R135: the two checksums agree exactly when the sum is below 65535; so a frame ENCODE builds passes
VALIDATE exactly then, and always up to 265 bytes, where the sum is at most 65297; a frame of 266 bytes that fails
exists. -/
def Obligations.ChecksumsAgreeBelow65535 : Prop :=
  (∀ x : Bytes,
      (byteSum x < 65535 * 65536 → (csumEnc x = csumDec x ↔ byteSum x < 65535)) ∧
        (x.length ≤ 65535 → byteSum x ≤ 16711425)) ∧
    (∀ (serial : BitVec 64) (password : Bytes) (cmd : BitVec 16) (payload : Bytes),
      password.length = 6 → payload.length ≤ 65510 →
        validate (buildFrame serial.toNat password cmd.toNat payload) =
            (if byteSum (frameBody serial.toNat password cmd.toNat payload) < 65535 then .valid
              else .drop .checksum) ∧
          (payload.length ≤ 240 →
            byteSum (frameBody serial.toNat password cmd.toNat payload) ≤ 65297)) ∧
    ∃ (serial : BitVec 64) (password : Bytes) (cmd : BitVec 16) (payload : Bytes),
      password.length = 6 ∧ payload.length = 241 ∧
        validate (buildFrame serial.toNat password cmd.toNat payload) = .drop .checksum

/-- R134, R303: a candidate cut at the length its own header declares never fails HEADER or LENGTH. -/
def Obligations.HeaderCandidatePassesHeaderAndLength : Prop :=
  ∀ (w : Bytes) (l : Byte), w.take 2 = [0x06, 0x01] → w[3]? = some l → l.toNat ≤ w.length →
    validate (w.take l.toNat) ≠ .drop .header ∧ validate (w.take l.toNat) ≠ .drop .length

/-- R137: changing any one byte of a valid frame makes VALIDATE report a drop, with the reason that the
byte's place gives; raising one byte of the summed part after the length by what another loses is not
detected. -/
def Obligations.SingleByteAlterationIsDetected : Prop :=
  ∀ f : Bytes, validate f = .valid → f.length ≤ 65535 →
    (∀ (i : Nat) (b : Byte), i < f.length → f[i]? ≠ some b →
      validate (f.set i b) =
        .drop (if i = 0 ∨ i = 1 then .header
          else if i = 3 then .length
          else if f.length - 2 ≤ i then .trailer
          else .checksum)) ∧
    ∀ (i j : Nat) (x y : Byte), 4 ≤ i → i < f.length - 4 → 4 ≤ j → j < f.length - 4 → i ≠ j →
      x.toNat + y.toNat = (f.getD i 0).toNat + (f.getD j 0).toNat →
      validate ((f.set i x).set j y) = .valid

/-! ### Operand forms -/

/-- R48: `FieldRead` of an unsigned field is the sum the rule writes, or PAYLOAD_SHORT when the field does
not fit; `STR` and `RAW` are the bytes from the offset to the extent. -/
def Obligations.FieldReadFollowsItsRule : Prop :=
  (∀ (p : Bytes) (off w : Nat) (ord : ByteOrder),
      (p.length < off + w → readUInt p off w ord = .error .payloadShort) ∧
      (off + w ≤ p.length →
        readUInt p off w ord = .ok (∑ k ∈ Finset.range w,
          (p.getD (off + k) 0).toNat *
            256 ^ (match ord with | .be => w - 1 - k | .le => k)))) ∧
    ∀ (p : Bytes) (off len : Nat),
      (p.length < off → readSpan p off .rest = .error .payloadShort) ∧
      (off ≤ p.length → readSpan p off .rest = .ok (p.drop off)) ∧
      (p.length < off + len → readSpan p off (.fixed len) = .error .payloadShort) ∧
      (off + len ≤ p.length → readSpan p off (.fixed len) = .ok ((p.drop off).take len))

/-- R50: `Trim` under each setting of `NUL_TRIM`. -/
def Obligations.TrimFollowsItsSetting : Prop :=
  ∀ s : Bytes,
    (∃ k, s = trim .trailing s ++ List.replicate k 0 ∧ (trim .trailing s).getLast? ≠ some 0) ∧
    (∃ j k, s = List.replicate j 0 ++ trim .both s ++ List.replicate k 0 ∧
      (trim .both s).head? ≠ some 0 ∧ (trim .both s).getLast? ≠ some 0) ∧
    trim .firstNul s = s.take (s.findIdx (· == 0))

/-- R155: a lookup gives the table's own entry if it has one, else `Unknown ` and the code's decimal
digits. -/
def Obligations.LookupGivesEntryOrPlaceholder : Prop :=
  (∀ (t : List String) (c : Nat),
      (∀ e, t[c]? = some e → lookupList t c = e) ∧
        (t.length ≤ c → lookupList t c = "Unknown " ++ toString c)) ∧
    ∀ (t : List (Nat × String)) (c : Nat),
      (∀ e, (c, e) ∈ t → (t.map Prod.fst).Nodup → lookupMap t c = e) ∧
        (c ∉ t.map Prod.fst → lookupMap t c = "Unknown " ++ toString c)

/-- R151: the header of a frame whose fields are written out one after the other (R70). -/
def Obligations.HeaderReadsEachField : Prop :=
  ∀ (len2 serial password cmd payload csum trailer : Bytes) (key : Byte),
    len2.length = 2 → serial.length = 8 → password.length = 6 → cmd.length = 2 → csum.length = 2 →
    trailer.length = 2 →
    let h := header ([0x06, 0x01] ++ len2 ++ [key] ++ serial ++ password ++ cmd ++ payload ++ csum
      ++ trailer)
    h.keyType = key ∧ h.serial.toNat = leValue serial ∧ h.password = password ∧
      h.cmd.toNat = beValue cmd ∧ h.payload = payload ∧ h.csum.toNat = beValue csum

/-! ### Encoder -/

/-- R250 to R252: ENCODE returns the frame of the layout, with the 16-bit length and the sum modulo 65535;
R253: over `ENC_MAX_PAYLOAD` it is rejected and builds nothing. -/
def Obligations.EncodeBuildsTheFrame : Prop :=
  ∀ (s : State) (serial : BitVec 64) (password : Bytes) (cmd : BitVec 16) (payload : Bytes),
    let body := [0x06, 0x01] ++ be16 (25 + payload.length) ++ [0x00] ++ le64 serial.toNat ++ password
      ++ be16 cmd.toNat ++ payload
    (payload.length ≤ s.cfg.encMaxPayload →
      exec (.encode serial password cmd payload) s =
        .next { s with responses := s.responses ++
          [{ status := .ok, events := [],
             value := some (.frame (body ++ be16 ((body.map BitVec.toNat).sum % 65535)
               ++ [0x0F, 0x02])) }] }) ∧
    (s.cfg.encMaxPayload < payload.length →
      exec (.encode serial password cmd payload) s =
        .next { s with responses := s.responses ++
          [{ status := .reject .encTooLong, events := [], value := none }] })

/-- R254: up to 240 payload bytes, DECODE of what ENCODE returns recovers every operand, or is a
DECODE_ERROR that names the command code when the kind's fields do not fit; and up to 230 bytes one FEED of
the same frame from IDLE gives exactly that event and ends IDLE. That an empty payload of a kind that reads a
field does not fit is the model's choice of R150's corner case (log 25). -/
def Obligations.EncodeThenDecodeRecoversTheOperands : Prop :=
  ∀ (s : State) (serial : BitVec 64) (password : Bytes) (cmd : BitVec 16) (payload : Bytes)
    (p : Phases),
    password.length = 6 → payload.length ≤ 240 → payload.length ≤ s.cfg.encMaxPayload →
    ∃ f e,
      exec (.encode serial password cmd payload) s =
        .next { s with responses := s.responses ++
          [{ status := .ok, events := [], value := some (.frame f) }] } ∧
      exec (.decode (phasesByte p) f) s =
        .next { s with responses := s.responses ++
          [{ status := .ok, events := [e], value := none }] } ∧
      (payloadDecodes s.cfg (dispatchKind cmd.toNat) payload.length = true →
        ∃ h record, e = .frame (dispatchKind cmd.toNat) h record ∧ h.serial = serial ∧ h.cmd = cmd ∧
          h.payload = payload ∧ h.password = password ∧ h.keyType = 0) ∧
      (payloadDecodes s.cfg (dispatchKind cmd.toNat) payload.length = false →
        e = .decodeError cmd .payloadShort f) ∧
      (payload.length ≤ 230 → s.raBuf = [] → s.raLen = none → f.length ≤ s.cfg.chunkMax →
        exec (.feed (phasesByte p) f) s =
          .next { s with responses := s.responses ++
            [{ status := .ok, events := [e], value := none }] })

/-! ### Reserved OP values and FEED -/

/-- R63: a reserved OP value is rejected with BAD_OP and has no other effect. -/
def Obligations.ReservedOpIsRejected : Prop :=
  ∀ (s : State) (op : Byte) (operands : Bytes), op.toNat = 0 ∨ 8 ≤ op.toNat →
    decode (op :: operands) = .ok (.reservedOp op operands) ∧
      exec (.reservedOp op operands) s =
        .next { s with responses := s.responses ++
          [{ status := .reject .badOp, events := [], value := none }] }

/-- R107 and R62 check 3: a FEED whose phase count is not 1 or 3, then one whose delivery is over
`CHUNK_MAX`, is rejected with no state change and no event; any other FEED is answered `OK` and writes only
`RA_BUF`, `RA_LEN` and its response. -/
def Obligations.FeedIsRejectedOrRuns : Prop :=
  ∀ (s : State) (ph : Byte) (chunk : Bytes),
    (ph.toNat ≠ 1 → ph.toNat ≠ 3 →
      exec (.feed ph chunk) s = .next { s with responses := s.responses ++
        [{ status := .reject .badOperand, events := [], value := none }] }) ∧
    (ph.toNat = 1 ∨ ph.toNat = 3 → s.cfg.chunkMax < chunk.length →
      exec (.feed ph chunk) s = .next { s with responses := s.responses ++
        [{ status := .reject .chunkTooLong, events := [], value := none }] }) ∧
    (ph.toNat = 1 ∨ ph.toNat = 3 → chunk.length ≤ s.cfg.chunkMax →
      ∃ events buf len,
        exec (.feed ph chunk) s = .next { s with raBuf := buf, raLen := len, responses := s.responses ++
          [{ status := .ok, events := events, value := none }] })

/-- R106: an empty delivery changes nothing and emits no event. -/
def Obligations.EmptyDeliveryChangesNothing : Prop :=
  ∀ (s : State) (p : Phases),
    exec (.feed (phasesByte p) []) s = .next { s with responses := s.responses ++
      [{ status := .ok, events := [], value := none }] }

/-- R102: a delivery that begins with the header magic and does not complete replaces whatever was pending,
with no event; the declared length is its byte 3 when there is one. -/
def Obligations.HeaderDeliveryStartsAFrame : Prop :=
  ∀ (s : State) (p : Phases) (chunk : Bytes), chunk.length ≤ s.cfg.chunkMax →
    chunk.take 2 = [0x06, 0x01] →
    (chunk.length < 4 →
      exec (.feed (phasesByte p) chunk) s =
        .next { s with raBuf := chunk, raLen := none, responses := s.responses ++
          [{ status := .ok, events := [], value := none }] }) ∧
    ∀ l : Byte, chunk[3]? = some l → chunk.length < l.toNat →
      exec (.feed (phasesByte p) chunk) s =
        .next { s with raBuf := chunk, raLen := some l.toNat, responses := s.responses ++
          [{ status := .ok, events := [], value := none }] }

/-- R103: a delivery that does not begin with the header magic is appended; with no length known the whole
buffer is one candidate, whose event is the one DECODE gives it, and the engine ends IDLE; below a known
length it is only kept. -/
def Obligations.ContinuationExtendsTheFrame : Prop :=
  ∀ (s : State) (p : Phases) (chunk : Bytes), chunk ≠ [] → chunk.length ≤ s.cfg.chunkMax →
    chunk.take 2 ≠ [0x06, 0x01] →
    (s.raLen = none →
      ∃ e,
        exec (.decode (phasesByte p) (s.raBuf ++ chunk)) s =
          .next { s with responses := s.responses ++
            [{ status := .ok, events := [e], value := none }] } ∧
        exec (.feed (phasesByte p) chunk) s =
          .next { s with raBuf := [], raLen := none, responses := s.responses ++
            [{ status := .ok, events := [e], value := none }] }) ∧
    ∀ l, s.raLen = some l → (s.raBuf ++ chunk).length < l →
      exec (.feed (phasesByte p) chunk) s =
        .next { s with raBuf := s.raBuf ++ chunk, responses := s.responses ++
          [{ status := .ok, events := [], value := none }] }

/-- R105: a header delivery whose length byte is 0 is discarded whole, with one ZERO_LENGTH drop. -/
def Obligations.ZeroLengthHeaderIsDiscarded : Prop :=
  ∀ (s : State) (p : Phases) (chunk : Bytes), chunk.length ≤ s.cfg.chunkMax →
    chunk.take 2 = [0x06, 0x01] → chunk[3]? = some 0 →
    exec (.feed (phasesByte p) chunk) s =
      .next { s with raBuf := [], raLen := none, responses := s.responses ++
        [{ status := .ok, events := [.drop .zeroLength chunk], value := none }] }

/-- R104: once the declared length `l` is reached, the first `l` bytes are cut, their event is the one DECODE
gives them, and the rest is placed exactly as a delivery of its own to an IDLE engine. -/
def Obligations.CompleteFrameIsCutAndTheRestReentered : Prop :=
  ∀ (s : State) (p : Phases) (chunk whole : Bytes) (l : Nat), raInv s.raBuf s.raLen = true →
    chunk ≠ [] → chunk.length ≤ s.cfg.chunkMax →
    (chunk.take 2 = [0x06, 0x01] ∧ chunk[3]?.map BitVec.toNat = some l ∧ whole = chunk) ∨
      (chunk.take 2 ≠ [0x06, 0x01] ∧ s.raLen = some l ∧ whole = s.raBuf ++ chunk) →
    1 ≤ l → l ≤ whole.length →
    ∃ e events buf len,
      exec (.decode (phasesByte p) (whole.take l)) s =
        .next { s with responses := s.responses ++
          [{ status := .ok, events := [e], value := none }] } ∧
      exec (.feed (phasesByte p) (whole.drop l)) { s with raBuf := [], raLen := none } =
        .next { s with raBuf := buf, raLen := len, responses := s.responses ++
          [{ status := .ok, events := events, value := none }] } ∧
      exec (.feed (phasesByte p) chunk) s =
        .next { s with raBuf := buf, raLen := len, responses := s.responses ++
          [{ status := .ok, events := e :: events, value := none }] }

/-- R108: one FEED emits at most as many events as its delivery has bytes. -/
def Obligations.FeedEmitsAtMostOneEventPerByte : Prop :=
  ∀ (s : State) (p : Phases) (chunk : Bytes), raInv s.raBuf s.raLen = true →
    chunk.length ≤ s.cfg.chunkMax →
    ∃ events buf len,
      exec (.feed (phasesByte p) chunk) s =
        .next { s with raBuf := buf, raLen := len, responses := s.responses ++
          [{ status := .ok, events := events, value := none }] } ∧
      events.length ≤ chunk.length

/-- R111: a frame of at most 255 bytes that DECODE answers with a FRAME event, fed from IDLE in pieces, gives
exactly that event over all the pieces and leaves the engine IDLE: (a) when the first piece has at least
four bytes and no later piece begins with the header magic; (b) when there are two pieces, the first of two
or three bytes and the second not beginning with the header magic. -/
def Obligations.SplitFrameIsReassembledOnce : Prop :=
  ∀ (s : State) (p : Phases) (first : Bytes) (later : List Bytes) (rest : List Bytes) (kind : Kind)
    (h : Header) (record : Record),
    s.raBuf = [] → s.raLen = none → (first ++ later.flatten).length ≤ 255 →
    (∀ piece ∈ first :: later, piece.length ≤ s.cfg.chunkMax) →
    (∀ piece ∈ later, piece.take 2 ≠ [0x06, 0x01]) →
    (4 ≤ first.length ∨ ((first.length = 2 ∨ first.length = 3) ∧ later.length = 1)) →
    exec (.decode (phasesByte p) (first ++ later.flatten)) s =
      .next { s with responses := s.responses ++
        [{ status := .ok, events := [.frame kind h record], value := none }] } →
    s.inbox = (first :: later).map (fun piece => encode (.feed (phasesByte p) piece)) ++ rest →
    ∃ answers,
      Host.Core.run Sys2Proof.core (later.length + 1) s =
        .next { s with inbox := rest, responses := s.responses ++ answers } ∧
      answers.flatMap Response.events = [.frame kind h record]

/-- R112: two frames of at most 255 bytes in one delivery from IDLE, each of which DECODE answers with a FRAME
event, give those two events in order and leave the engine IDLE. -/
def Obligations.CoalescedFramesAreEmittedInOrder : Prop :=
  ∀ (s : State) (p : Phases) (f1 f2 : Bytes) (k1 k2 : Kind) (h1 h2 : Header) (r1 r2 : Record),
    s.raBuf = [] → s.raLen = none → f1.length ≤ 255 → f2.length ≤ 255 →
    (f1 ++ f2).length ≤ s.cfg.chunkMax →
    exec (.decode (phasesByte p) f1) s =
      .next { s with responses := s.responses ++
        [{ status := .ok, events := [.frame k1 h1 r1], value := none }] } →
    exec (.decode (phasesByte p) f2) s =
      .next { s with responses := s.responses ++
        [{ status := .ok, events := [.frame k2 h2 r2], value := none }] } →
    exec (.feed (phasesByte p) (f1 ++ f2)) s =
      .next { s with responses := s.responses ++
        [{ status := .ok, events := [.frame k1 h1 r1, .frame k2 h2 r2], value := none }] }

/-! ### DECODE and the kinds -/

/-- R150, R305: DECODE of a candidate that fails validation is one DROP with that reason, whatever its
command code; a phase count that is not 1 or 3 is rejected before the candidate is looked at. -/
def Obligations.DecodeDropsAnInvalidCandidate : Prop :=
  ∀ (s : State) (ph : Byte) (f : Bytes),
    (ph.toNat = 1 ∨ ph.toNat = 3 → ∀ reason, validate f = .drop reason →
      exec (.decode ph f) s = .next { s with responses := s.responses ++
        [{ status := .ok, events := [.drop reason f], value := none }] }) ∧
    (ph.toNat ≠ 1 → ph.toNat ≠ 3 →
      exec (.decode ph f) s = .next { s with responses := s.responses ++
        [{ status := .reject .badOperand, events := [], value := none }] })

/-- R150, R152: DECODE of a valid frame is the instruction of its command code. -/
def Obligations.DecodeOfAValidFrameIsItsKind : Prop :=
  ∀ (s : State) (p : Phases) (f : Bytes), validate f = .valid →
    exec (.decode (phasesByte p) f) s = exec (frameInstr p f) s

/-- R304, R48: a valid frame gives a FRAME event of its kind when every field of the kind fits in its
payload, and a DECODE_ERROR with its command code when one does not; UNKNOWN reads no field. That an empty
payload of a kind that reads a field is a DECODE_ERROR whatever the field's extent is the model's choice of
R150's corner case (log 25). -/
def Obligations.DecodeErrorExactlyWhenAFieldDoesNotFit : Prop :=
  ∀ (s : State) (p : Phases) (f : Bytes), validate f = .valid →
    (payloadDecodes s.cfg (dispatchKind (frameCode f)) (f.length - 25) = true →
      ∃ record, exec (.decode (phasesByte p) f) s = .next { s with responses := s.responses ++
        [{ status := .ok, events := [.frame (dispatchKind (frameCode f)) (header f) record],
           value := none }] }) ∧
    (payloadDecodes s.cfg (dispatchKind (frameCode f)) (f.length - 25) = false →
      exec (.decode (phasesByte p) f) s = .next { s with responses := s.responses ++
        [{ status := .ok, events := [.decodeError (header f).cmd .payloadShort f], value := none }] })

/-- R159 to R161: the login record, for codes 1 and 2; a DECODE_ERROR when a field does not fit. -/
def Obligations.LoginFramesDecode : Prop :=
  ∀ (s : State) (ph : Phases) (f : Bytes),
    let answers (e : Event) : Result := .next { s with responses := s.responses ++
      [{ status := .ok, events := [e], value := none }] }
    let p := payloadOf f
    let l := s.cfg.login
    let t := (p.getD l.typeOff 0).toNat
    let record : Record := .login
      { type := t
        phases := phaseCount t
        manufacturer := extentBytes p l.manuf.off l.manuf.extent
        model := extentBytes p l.model.off l.model.extent
        hwVersion := extentBytes p l.hwver.off l.hwver.extent
        powerRaw := composePower s.cfg.powerCompose ((p.drop l.powerOff).take 4)
        maxAmps := (p.getD l.maxAmpsOff 0).toNat }
    (fieldsFit s.cfg .loginBeacon p.length = true →
      exec (.loginBeacon ph f) s = answers (.frame .loginBeacon (header f) record) ∧
      exec (.loginResponse ph f) s = answers (.frame .loginResponse (header f) record)) ∧
    (fieldsFit s.cfg .loginBeacon p.length = false →
      exec (.loginBeacon ph f) s = answers (.decodeError (header f).cmd .payloadShort f) ∧
      exec (.loginResponse ph f) s = answers (.decodeError (header f).cmd .payloadShort f))

/-- R157: the phase count of a device type. -/
def Obligations.PhaseCountOfADeviceType : Prop :=
  ∀ t : Nat,
    ((10 ≤ t ∧ t ≤ 15) ∨ (22 ≤ t ∧ t ≤ 25) → phaseCount t = .three) ∧
      (¬((10 ≤ t ∧ t ≤ 15) ∨ (22 ≤ t ∧ t ≤ 25)) → phaseCount t = .one)

/-- R162: the four readings of the output-power bytes. -/
def Obligations.PowerCompositionReadings : Prop :=
  ∀ b0 b1 b2 b3 : Byte,
    let b := [b0, b1, b2, b3]
    composePower .be b = beValue b ∧ composePower .le b = leValue b ∧
      composePower .wordswapBe b = beValue [b2, b3, b0, b1] ∧
      composePower .wordswapLe b = beValue [b1, b0, b3, b2]

/-- R181 to R183, R185, R189: the AC-status record, for codes 4 and 13, in which every field of the layout is
read whatever the phase count is; a DECODE_ERROR when a field does not fit. -/
def Obligations.AcStatusFramesDecode : Prop :=
  ∀ (s : State) (ph : Phases) (f : Bytes),
    let answers (e : Event) : Result := .next { s with responses := s.responses ++
      [{ status := .ok, events := [e], value := none }] }
    let p := payloadOf f
    let l := s.cfg.ac
    let uint (off w : Nat) (ord : ByteOrder) := uintValue ord ((p.drop off).take w)
    let u (d : UField) := uint d.off d.width.bytes d.ord
    let v : PerLine Nat := ⟨u l.v.l1, u l.v.l2, u l.v.l3⟩
    let a : PerLine Nat := ⟨u l.a.l1, u l.a.l2, u l.a.l3⟩
    let ew := if p.length < 25 then 2 else 4
    let eb := uint l.errOff ew l.errOrd
    let pl := (p.getD l.plugOff 0).toNat
    let cu := (p.getD l.curOff 0).toNat
    let record : Record := .acStatus
      { vRaw := v, aRaw := a, energyRaw := u l.energy
        voltage := ⟨(v.l1 : Rat) / 10, (v.l2 : Rat) / 10, (v.l3 : Rat) / 10⟩
        amperage := ⟨(a.l1 : Rat) / 100, (a.l2 : Rat) / 100, (a.l3 : Rat) / 100⟩
        energy := (u l.energy : Rat) / 1000
        tIn := temperature (uint l.tin.off l.tin.width.width.bytes l.tin.ord)
        tOut := temperature (uint l.tout.off l.tout.width.width.bytes l.tout.ord)
        errWidth := 8 * ew, errBits := eb, errIndex := firstSet s.cfg.errBitOrder eb (8 * ew)
        plugState := pl, outputState := (p.getD l.outOff 0).toNat, currentState := cu
        status := chargingStatus s.cfg.plugCu cu pl
        powerMw := power v a ph, powerKw := (power v a ph : Rat) / 1000000 }
    (fieldsFit s.cfg .acStatus p.length = true →
      exec (.acStatus4 ph f) s = answers (.frame .acStatus (header f) record) ∧
      exec (.acStatus13 ph f) s = answers (.frame .acStatus (header f) record)) ∧
    (fieldsFit s.cfg .acStatus p.length = false →
      exec (.acStatus4 ph f) s = answers (.decodeError (header f).cmd .payloadShort f) ∧
      exec (.acStatus13 ph f) s = answers (.decodeError (header f).cmd .payloadShort f))

/-- R184: the sentinel 255 gives −1.00 °C and its flag; every other raw value gives the formula. -/
def Obligations.TemperatureSentinelAndFormula : Prop :=
  temperature 255 = { sentinel := true, centi := -100 } ∧
    ∀ raw : Nat, raw ≠ 255 → temperature raw = { sentinel := false, centi := (raw : Int) - 20000 }

/-- R186: the index of the first set bit from either end, 255 when no bit of the field is set; and its
description, `no error` for 255. -/
def Obligations.FirstSetBitFromEitherEnd : Prop :=
  (∀ (o : ErrBitOrder) (eb w : Nat), eb < 2 ^ w →
    (eb = 0 → firstSet o eb w = 255) ∧
    (eb ≠ 0 → firstSet o eb w < w) ∧
    (eb ≠ 0 → o = .lsbFirst →
      eb.testBit (firstSet o eb w) = true ∧ ∀ j < firstSet o eb w, eb.testBit j = false) ∧
    (eb ≠ 0 → o = .msbFirst →
      eb.testBit (w - 1 - firstSet o eb w) = true ∧
        ∀ j, w - 1 - firstSet o eb w < j → eb.testBit j = false)) ∧
    ∀ t : List String, errorName t 255 = "no error" ∧ ∀ i, i ≠ 255 → errorName t i = lookupList t i

/-- R187: the current power in milliwatts: 0 when a reading of lines 1 to `ph` is 0, else the sum of the
products over those lines. -/
def Obligations.PowerIsTheSumOrZero : Prop :=
  ∀ v a : PerLine Nat,
    (v.l1 = 0 ∨ a.l1 = 0 → power v a .one = 0) ∧
    (¬(v.l1 = 0 ∨ a.l1 = 0) → power v a .one = v.l1 * a.l1) ∧
    (v.l1 = 0 ∨ a.l1 = 0 ∨ v.l2 = 0 ∨ a.l2 = 0 ∨ v.l3 = 0 ∨ a.l3 = 0 → power v a .three = 0) ∧
    (¬(v.l1 = 0 ∨ a.l1 = 0 ∨ v.l2 = 0 ∨ a.l2 = 0 ∨ v.l3 = 0 ∨ a.l3 = 0) →
      power v a .three = v.l1 * a.l1 + v.l2 * a.l2 + v.l3 * a.l3)

/-- R188: the charging-status table, under a Connected-Unlocked code other than 4. -/
def Obligations.ChargingStatusFollowsItsTable : Prop :=
  ∀ (plugCu : Byte) (cu pl : Nat), plugCu.toNat ≠ 4 →
    let cl := 4
    let un := plugCu.toNat
    (cu = 13 → chargingStatus plugCu cu pl = 1) ∧
    (cu = 14 → pl = cl → chargingStatus plugCu cu pl = 2) ∧
    (cu = 14 → pl = un → chargingStatus plugCu cu pl = 3) ∧
    (cu = 15 → pl = cl ∨ pl = un → chargingStatus plugCu cu pl = 4) ∧
    (cu = 17 → chargingStatus plugCu cu pl = 5) ∧
    (cu = 20 → chargingStatus plugCu cu pl = 6) ∧
    (cu = 12 → chargingStatus plugCu cu pl = 7) ∧
    (cu = 1 → chargingStatus plugCu cu pl = 8) ∧
    (cu = 10 → chargingStatus plugCu cu pl = 9) ∧
    (cu = 11 → chargingStatus plugCu cu pl = 10) ∧
    (cu = 2 ∨ cu = 3 → chargingStatus plugCu cu pl = 11) ∧
    (cu ∉ [13, 14, 15, 17, 20, 12, 1, 10, 11, 2, 3] → chargingStatus plugCu cu pl = 0) ∧
    (cu = 14 ∨ cu = 15 → pl ≠ cl → pl ≠ un → chargingStatus plugCu cu pl = 0)

/-- R196, R197: the charge-status record, for codes 5 and 6: the raw fields, and each fee with its sentinel
flag and its scaled value, in list order; a DECODE_ERROR when a field does not fit. -/
def Obligations.ChargeStatusFramesDecode : Prop :=
  ∀ (s : State) (ph : Phases) (f : Bytes),
    let answers (e : Event) : Result := .next { s with responses := s.responses ++
      [{ status := .ok, events := [e], value := none }] }
    let p := payloadOf f
    let l := s.cfg.cs
    let fee (raw : Nat) : FeeValue :=
      { raw := raw, sentinel := decide (raw = 65535), value := (raw : Rat) / 100 }
    let record : Record := .chargeStatus
      { sessionId := extentBytes p l.session.off l.session.extent
        userId := extentBytes p l.user.off l.user.extent
        reservation := (p.getD l.resvOff 0).toNat
        start := (p.getD l.startOff 0).toNat
        chargeType := (p.getD l.ctypeOff 0).toNat
        fees := l.fees.map fun d => fee (uintValue d.ord ((p.drop d.off).take 2)) }
    (fieldsFit s.cfg .chargeStatus p.length = true →
      exec (.chargeStatus5 ph f) s = answers (.frame .chargeStatus (header f) record) ∧
      exec (.chargeStatus6 ph f) s = answers (.frame .chargeStatus (header f) record)) ∧
    (fieldsFit s.cfg .chargeStatus p.length = false →
      exec (.chargeStatus5 ph f) s = answers (.decodeError (header f).cmd .payloadShort f) ∧
      exec (.chargeStatus6 ph f) s = answers (.decodeError (header f).cmd .payloadShort f))

/-- R200, R201: the two charge acknowledgements; a DECODE_ERROR when a field does not fit. -/
def Obligations.ChargeAcknowledgementsDecode : Prop :=
  ∀ (s : State) (ph : Phases) (f : Bytes),
    let answers (e : Event) : Result := .next { s with responses := s.responses ++
      [{ status := .ok, events := [e], value := none }] }
    let short : Event := .decodeError (header f).cmd .payloadShort f
    let p := payloadOf f
    let u (d : UField) := uintValue d.ord ((p.drop d.off).take d.width.bytes)
    (fieldsFit s.cfg .chargeStartAck p.length = true →
      exec (.chargeStartAck ph f) s = answers (.frame .chargeStartAck (header f) (.chargeStartAck
        { reservationResult := u s.cfg.csa.result, errorReason := u s.cfg.csa.reason
          outputAmps := u s.cfg.csa.amps }))) ∧
    (fieldsFit s.cfg .chargeStartAck p.length = false → exec (.chargeStartAck ph f) s = answers short) ∧
    (fieldsFit s.cfg .chargeStopAck p.length = true →
      exec (.chargeStopAck ph f) s =
        answers (.frame .chargeStopAck (header f) (.chargeStopAck (u s.cfg.cstResult)))) ∧
    (fieldsFit s.cfg .chargeStopAck p.length = false → exec (.chargeStopAck ph f) s = answers short)

/-- R220 to R223: SYSTEM_TIME (a little-endian unsigned epoch), VERSION, OUTPUT_AMPS and DEVICE_NAME; a
DECODE_ERROR when a field does not fit. That a DEVICE_NAME field of no bytes does not fit an empty payload is
the model's choice of R150's corner case (log 25). -/
def Obligations.ConfigurationFramesDecode : Prop :=
  ∀ (s : State) (ph : Phases) (f : Bytes),
    let answers (e : Event) : Result := .next { s with responses := s.responses ++
      [{ status := .ok, events := [e], value := none }] }
    let short : Event := .decodeError (header f).cmd .payloadShort f
    let p := payloadOf f
    let span (d : SpanField) := extentBytes p d.off d.extent
    (fieldsFit s.cfg .systemTime p.length = true →
      exec (.systemTime ph f) s = answers (.frame .systemTime (header f)
        (.systemTime (leValue ((p.drop s.cfg.timeEpochOff).take 4))))) ∧
    (fieldsFit s.cfg .systemTime p.length = false → exec (.systemTime ph f) s = answers short) ∧
    (fieldsFit s.cfg .version p.length = true →
      exec (.version ph f) s = answers (.frame .version (header f) (.version
        { hwVersion := span s.cfg.version.hw, swVersion := span s.cfg.version.sw
          feature := uintValue s.cfg.version.featureOrd
            ((p.drop s.cfg.version.featureOff).take 4) }))) ∧
    (fieldsFit s.cfg .version p.length = false → exec (.version ph f) s = answers short) ∧
    (fieldsFit s.cfg .outputAmps p.length = true →
      exec (.outputAmps ph f) s = answers (.frame .outputAmps (header f)
        (.outputAmps (p.getD s.cfg.ampsOff 0).toNat))) ∧
    (fieldsFit s.cfg .outputAmps p.length = false → exec (.outputAmps ph f) s = answers short) ∧
    (payloadDecodes s.cfg .deviceName p.length = true →
      exec (.deviceName ph f) s =
        answers (.frame .deviceName (header f) (.deviceName (span s.cfg.name)))) ∧
    (payloadDecodes s.cfg .deviceName p.length = false → exec (.deviceName ph f) s = answers short)

/-- R224, R225, R153: LANGUAGE and TEMPERATURE_UNIT give their raw code, or a DECODE_ERROR when it does not
fit; UNKNOWN gives an empty record whatever its payload is. -/
def Obligations.CodeAndUnknownFramesDecode : Prop :=
  ∀ (s : State) (ph : Phases) (f : Bytes),
    let answers (e : Event) : Result := .next { s with responses := s.responses ++
      [{ status := .ok, events := [e], value := none }] }
    let short : Event := .decodeError (header f).cmd .payloadShort f
    let p := payloadOf f
    let u (d : UField) := uintValue d.ord ((p.drop d.off).take d.width.bytes)
    (fieldsFit s.cfg .language p.length = true →
      exec (.language ph f) s = answers (.frame .language (header f) (.language (u s.cfg.langCode)))) ∧
    (fieldsFit s.cfg .language p.length = false → exec (.language ph f) s = answers short) ∧
    (fieldsFit s.cfg .temperatureUnit p.length = true →
      exec (.temperatureUnit ph f) s = answers (.frame .temperatureUnit (header f)
        (.temperatureUnit (u s.cfg.tempuCode)))) ∧
    (fieldsFit s.cfg .temperatureUnit p.length = false →
      exec (.temperatureUnit ph f) s = answers short) ∧
    exec (.unknown ph f) s = answers (.frame .unknown (header f) .unknown)

/-! ### The host's side -/

/-- R336(e): the phase count the host owes is 1 after a RESET, and the `phases` of a login event right after
it. -/
def Obligations.DutyPhasesFollowLoginAndReset : Prop :=
  ∀ (history : List (Instr × Response)) (r : Response),
    dutyPhases (history ++ [(.reset, r)]) = .one ∧
      ∀ (i : Instr) (k : Kind) (h : Header) (record : LoginRecord), i ≠ .reset →
        r.events = [.frame k h (.login record)] →
        dutyPhases (history ++ [(i, r)]) = record.phases

/-- R66: the pieces of a FEEDSPLIT join to the bytes that were split, when the cuts rise and stay within
them. -/
def Obligations.FeedSplitPiecesJoin : Prop :=
  ∀ (b : Bytes) (cuts : List Nat), List.Pairwise (· ≤ ·) cuts → (∀ k ∈ cuts, k ≤ b.length) →
    (cutAt b cuts).flatten = b

/-! ### The empty payload -/

/-- R150's corner cases: a valid 25-byte frame of an assigned code is a DECODE_ERROR with that code, whatever
the layout is, and one of an unassigned code is a FRAME of UNKNOWN. That the corner case holds for a field of
no bytes, which R48 would let fit, is the model's choice (log 25). -/
def Obligations.EmptyPayloadIsADecodeErrorUnlessUnknown : Prop :=
  ∀ (s : State) (p : Phases) (f : Bytes), validate f = .valid → f.length = 25 →
    (dispatchKind (frameCode f) ≠ .unknown →
      exec (.decode (phasesByte p) f) s = .next { s with responses := s.responses ++
        [{ status := .ok, events := [.decodeError (header f).cmd .payloadShort f], value := none }] }) ∧
    (dispatchKind (frameCode f) = .unknown →
      exec (.decode (phasesByte p) f) s = .next { s with responses := s.responses ++
        [{ status := .ok, events := [.frame .unknown (header f) .unknown], value := none }] })
end

