-- ==== Sys2Proof/Laws/Bytes.lean ====
section
/-!
SUPPORT. Byte sequences: reading back what a byte-order helper writes, slices, and what a field read can
answer.
-/

namespace Sys2Proof.Machine

@[simp] theorem byteAt_cons_zero (a : Byte) (b : Bytes) : byteAt (a :: b) 0 = a := rfl

@[simp] theorem byteAt_cons_succ (a : Byte) (b : Bytes) (i : Nat) :
    byteAt (a :: b) (i + 1) = byteAt b i := by simp [byteAt]

theorem byteAt_append_left {a : Bytes} (b : Bytes) {i : Nat} (h : i < a.length) :
    byteAt (a ++ b) i = byteAt a i := by
  simp [byteAt, List.getElem?_append_left h]

theorem byteAt_append_right (a b : Bytes) (i : Nat) : byteAt (a ++ b) (a.length + i) = byteAt b i := by
  simp only [byteAt]
  rw [List.getD_append_right _ _ _ _ (by omega)]
  congr 1; omega

theorem byteAt_take {b : Bytes} {i n : Nat} (h : i < n) : byteAt (b.take n) i = byteAt b i := by
  simp [byteAt, h]

/-- A replaced byte reads as the new one. -/
theorem byteAt_set_self {b : Bytes} {i : Nat} (x : Byte) (h : i < b.length) : byteAt (b.set i x) i = x := by
  simp [byteAt, h]

/-- Every other byte reads as before. -/
theorem byteAt_set_ne (b : Bytes) {i j : Nat} (x : Byte) (h : i ≠ j) : byteAt (b.set i x) j = byteAt b j := by
  simp [byteAt, h]

/-- A byte that is there is what `byteAt` reads. -/
theorem byteAt_of_getElem? {b : Bytes} {i : Nat} {x : Byte} (h : b[i]? = some x) : byteAt b i = x := by
  simp [byteAt, h]

@[simp] theorem slice_length (b : Bytes) (i j : Nat) :
    (slice b i j).length = min (j - i) (b.length - i) := by simp [slice]

/-- A slice from 0 is a prefix. -/
@[simp] theorem slice_zero (b : Bytes) (j : Nat) : slice b 0 j = b.take j := by simp [slice]

/-- The slice between two prefixes' ends is the middle part. -/
theorem slice_append (a b c : Bytes) : slice (a ++ b ++ c) a.length (a.length + b.length) = b := by
  simp [slice]

@[simp] theorem be16_length (v : Nat) : (be16 v).length = 2 := rfl

@[simp] theorem le64_length (v : Nat) : (le64 v).length = 8 := rfl

/-- Big-endian two-byte read-back. -/
theorem u16be_be16 {v : Nat} (h : v < 65536) (b : Bytes) : u16be (be16 v ++ b) 0 = v := by
  simp [u16be, be16, byteAt]; omega

/-- A two-byte read at the end of a prefix reads what follows it. -/
theorem u16be_append (a b : Bytes) : u16be (a ++ b) a.length = u16be b 0 := by
  have h := byteAt_append_right a b 0
  have h1 := byteAt_append_right a b 1
  simp only [Nat.add_zero] at h
  simp [u16be, h, h1]

/-- Any two-byte read is below 65536. -/
theorem u16be_lt (b : Bytes) (o : Nat) : u16be b o < 65536 := by
  have h := (byteAt b o).isLt
  have h1 := (byteAt b (o + 1)).isLt
  unfold u16be; omega

/-- The two bytes that a big-endian count of a two-byte read writes are the two bytes read. -/
theorem be16_u16be (b : Bytes) (o : Nat) : be16 (u16be b o) = [byteAt b o, byteAt b (o + 1)] := by
  have h := (byteAt b o).isLt
  have h1 := (byteAt b (o + 1)).isLt
  simp only [be16, u16be, List.cons.injEq, and_true]
  constructor <;> apply BitVec.eq_of_toNat_eq <;> simp <;> omega

@[simp] theorem leValue_nil : leValue [] = 0 := rfl

@[simp] theorem leValue_cons (a : Byte) (b : Bytes) : leValue (a :: b) = a.toNat + 256 * leValue b := rfl

/-- Little-endian eight-byte read-back. -/
theorem leValue_le64 {v : Nat} (h : v < 2 ^ 64) : leValue (le64 v) = v := by
  simp [le64, List.range_succ]; omega

/-- A little-endian value is below 256 to the number of bytes. -/
theorem leValue_lt (b : Bytes) : leValue b < 256 ^ b.length := by
  induction b with
  | nil => simp
  | cons a b ih =>
    have h := a.isLt
    simp only [leValue_cons, List.length_cons, Nat.pow_succ]
    omega

/-- A big-endian fold from `acc` puts `acc` above the bytes. -/
theorem beFold_eq (b : Bytes) (acc : Nat) :
    b.foldl (fun acc x => acc * 256 + x.toNat) acc = acc * 256 ^ b.length + beValue b := by
  induction b generalizing acc with
  | nil => simp [beValue]
  | cons a b ih =>
    simp only [beValue, List.foldl_cons, List.length_cons]
    rw [ih, ih (0 * 256 + a.toNat)]
    ring

@[simp] theorem beValue_nil : beValue [] = 0 := rfl

/-- The first byte of a big-endian number is its highest. -/
theorem beValue_cons (a : Byte) (b : Bytes) : beValue (a :: b) = a.toNat * 256 ^ b.length + beValue b := by
  have h := beFold_eq b (0 * 256 + a.toNat)
  simpa [beValue] using h

/-- All that a `U` field read can answer (20_memory.md R48). -/
theorem readUInt_cases (p : Bytes) (off w : Nat) (ord : ByteOrder) :
    (off + w ≤ p.length ∧ readUInt p off w ord = .ok (uintValue ord (slice p off (off + w)))) ∨
      (p.length < off + w ∧ readUInt p off w ord = .error .payloadShort) := by
  unfold readUInt
  split
  · exact .inr ⟨by omega, rfl⟩
  · exact .inl ⟨by omega, rfl⟩

/-- All that a `STR` or `RAW` field read can answer (20_memory.md R48). -/
theorem readSpan_cases (p : Bytes) (off : Nat) (e : Extent) :
    (extentEnd off e ≤ p.length ∧ readSpan p off e = .ok (extentBytes p off e)) ∨
      (p.length < extentEnd off e ∧ readSpan p off e = .error .payloadShort) := by
  cases e with
  | rest =>
    simp only [readSpan, extentEnd, extentBytes]
    split
    · exact .inr ⟨by omega, rfl⟩
    · exact .inl ⟨by omega, by simp [slice]⟩
  | fixed len =>
    simp only [readSpan, extentEnd, extentBytes]
    split
    · exact .inr ⟨by omega, rfl⟩
    · exact .inl ⟨by omega, by simp [slice]⟩

/-- The phase counts of operand bytes are exactly 1 and 3 (30_encoding.md R62). -/
theorem phasesOf_eq_some_iff (ph : Byte) (p : Phases) : phasesOf ph = some p ↔ ph = phasesByte p := by
  revert ph; cases p <;> decide +revert

@[simp] theorem phasesOf_phasesByte (p : Phases) : phasesOf (phasesByte p) = some p := by
  cases p <;> rfl

end Sys2Proof.Machine
end

