-- ==== Sys2Proof/Laws/Fields.lean ====
section
/-!
SUPPORT. Field reads and payload decodes: the value of a field that fits, and what a payload decode that
answered a value says of its parts (20_memory.md R48).
-/

namespace Sys2Proof.Machine

/-- A `U` field that fits. -/
theorem readUInt_of_fits {p : Bytes} {off w : Nat} {ord : ByteOrder} (h : off + w ≤ p.length) :
    readUInt p off w ord = .ok (uintValue ord ((p.drop off).take w)) := by
  rcases readUInt_cases p off w ord with ⟨_, e⟩ | ⟨hn, _⟩
  · rw [e]; simp [slice]
  · omega

/-- A `U` field that answered a value fits. -/
theorem fits_of_readUInt {p : Bytes} {off w : Nat} {ord : ByteOrder} {x : Nat}
    (h : readUInt p off w ord = .ok x) : off + w ≤ p.length := by
  rcases readUInt_cases p off w ord with ⟨hn, _⟩ | ⟨_, e⟩
  · exact hn
  · rw [e] at h; cases h

/-- A one-byte field that fits is the payload's byte there. -/
theorem readByte_of_fits {p : Bytes} {off : Nat} (h : off + 1 ≤ p.length) :
    readByte p off = .ok (p.getD off 0).toNat := by
  rw [readByte, readUInt_of_fits h, List.drop_eq_getElem_cons (by omega)]
  simp only [List.take_succ_cons, List.take_zero, uintValue, beValue, List.foldl_cons, List.foldl_nil,
    List.getD_eq_getElem?_getD, List.getElem?_eq_getElem (show off < p.length by omega)]
  simp

/-- A `STR` or `RAW` field that fits. -/
theorem readSpan_of_fits {p : Bytes} {off : Nat} {e : Extent} (h : extentEnd off e ≤ p.length) :
    readSpan p off e = .ok (extentBytes p off e) := by
  rcases readSpan_cases p off e with ⟨_, e⟩ | ⟨hn, _⟩
  · exact e
  · omega

/-- A `STR` or `RAW` field that answered bytes fits. -/
theorem fits_of_readSpan {p : Bytes} {off : Nat} {e : Extent} {x : Bytes} (h : readSpan p off e = .ok x) :
    extentEnd off e ≤ p.length := by
  rcases readSpan_cases p off e with ⟨hn, _⟩ | ⟨_, e⟩
  · exact hn
  · rw [e] at h; cases h

/-- A decode of two parts that answered a value: each part answered one. -/
theorem decoded_bind {α β : Type} {x : Decoded α} {g : α → Decoded β} {b : β} (h : x >>= g = .ok b) :
    ∃ a, x = .ok a ∧ g a = .ok b := by
  cases x with
  | error e => cases h
  | ok a => exact ⟨a, rfl, h⟩

/-- A wrapped decode that answered a value. -/
theorem decoded_map {α β : Type} {x : Decoded α} {g : α → β} {b : β} (h : g <$> x = .ok b) :
    ∃ a, x = .ok a ∧ g a = b := by
  cases x with
  | error e => cases h
  | ok a => exact ⟨a, rfl, by injection h⟩

/-- The fees when every fee field fits (43_decoder_charge.md R196). -/
theorem readFees_of_fits (p : Bytes) (l : List FeeField) (h : ∀ d ∈ l, d.off + 2 ≤ p.length) :
    readFees p l = .ok (l.map fun d => feeValue (uintValue d.ord ((p.drop d.off).take 2))) := by
  induction l with
  | nil => rfl
  | cons d l ih =>
    simp only [readFees, readFee, readUInt_of_fits (h d (by simp)), ih fun x hx => h x (by simp [hx])]
    rfl

/-- Fees that answered values: every fee field fits. -/
theorem fits_of_readFees {p : Bytes} {l : List FeeField} {x : List FeeValue} (h : readFees p l = .ok x) :
    ∀ d ∈ l, d.off + 2 ≤ p.length := by
  induction l generalizing x with
  | nil => simp
  | cons d l ih =>
    obtain ⟨a, h1, h⟩ := decoded_bind h
    obtain ⟨b, h2, -⟩ := decoded_bind h
    intro e he
    rcases List.mem_cons.mp he with rfl | he
    · exact fits_of_readUInt h1
    · exact ih h2 e he

end Sys2Proof.Machine
end

