-- ==== Sys2Proof/Laws/Flags.lean ====
section
/-!
SUPPORT. The checksums, the verdict, and the frame the encoder builds: sums over joined sequences, what a
valid verdict says, and where the built frame holds each of its fields.
-/

namespace Sys2Proof.Machine

@[simp] theorem byteSum_nil : byteSum [] = 0 := rfl

@[simp] theorem byteSum_cons (a : Byte) (b : Bytes) : byteSum (a :: b) = a.toNat + byteSum b := by
  simp [byteSum]

@[simp] theorem byteSum_append (a b : Bytes) : byteSum (a ++ b) = byteSum a + byteSum b := by
  simp [byteSum]

/-- Each byte adds at most 255. -/
theorem byteSum_le (b : Bytes) : byteSum b ≤ 255 * b.length := by
  induction b with
  | nil => simp
  | cons a b ih => have h := a.isLt; simp only [byteSum_cons, List.length_cons]; omega

/-- Replacing one byte moves the sum by the difference of the two bytes. -/
theorem byteSum_set (b : Bytes) (i : Nat) (x : Byte) (h : i < b.length) :
    byteSum (b.set i x) + (byteAt b i).toNat = byteSum b + x.toNat := by
  induction b generalizing i with
  | nil => simp at h
  | cons a b ih =>
    cases i with
    | zero => simp; omega
    | succ i =>
      have := ih i (by simpa using h)
      simp only [List.set_cons_succ, byteSum_cons, byteAt_cons_succ]; omega

/-- What a valid verdict says, one clause per check (R132). -/
theorem validate_eq_valid_iff (f : Bytes) :
    validate f = .valid ↔
      25 ≤ f.length ∧ byteAt f 0 = 0x06 ∧ byteAt f 1 = 0x01 ∧ (byteAt f 3).toNat = f.length % 256 ∧
        byteAt f (f.length - 2) = 0x0F ∧ byteAt f (f.length - 1) = 0x02 ∧
        csumDec (f.take (f.length - 4)) = u16be f (f.length - 4) := by
  unfold validate
  simp only [slice_zero]
  split
  · simp; omega
  · split
    · simp; intro _ h; simp_all
    · split
      · simp_all
      · split
        · rename_i h
          simp_all; tauto
        · split <;> simp_all

/-- A candidate whose first four checks pass is valid or fails the checksum (R132, R133). -/
theorem validate_of_framed {f : Bytes} (hn : 25 ≤ f.length) (h0 : byteAt f 0 = 0x06)
    (h1 : byteAt f 1 = 0x01) (h3 : (byteAt f 3).toNat = f.length % 256)
    (ht : byteAt f (f.length - 2) = 0x0F) (hu : byteAt f (f.length - 1) = 0x02) :
    validate f =
      if csumDec (f.take (f.length - 4)) = u16be f (f.length - 4) then .valid else .drop .checksum := by
  unfold validate
  simp [h0, h1, h3, ht, hu, Nat.not_lt.mpr hn]

@[simp] theorem frameBody_length (serial : Nat) (password : Bytes) (cmd : Nat) (payload : Bytes) :
    (frameBody serial password cmd payload).length = 15 + password.length + payload.length := by
  simp [frameBody]; omega

@[simp] theorem buildFrame_length (serial : Nat) (password : Bytes) (cmd : Nat) (payload : Bytes) :
    (buildFrame serial password cmd payload).length = 19 + password.length + payload.length := by
  simp [buildFrame]; omega

end Sys2Proof.Machine
end

