-- ==== Sys2Proof/Laws/State.lean ====
section
/-!
SUPPORT. One lemma per field per state update, so that no proof unfolds a record update.
-/

namespace Sys2Proof.Machine

variable (s : State) (buf : Bytes) (len : Option Nat) (r : Response) (q : Bytes)

@[simp] theorem State.setRa_raBuf : (s.setRa buf len).raBuf = buf := rfl
@[simp] theorem State.setRa_raLen : (s.setRa buf len).raLen = len := rfl
@[simp] theorem State.setRa_cfg : (s.setRa buf len).cfg = s.cfg := rfl
@[simp] theorem State.setRa_inbox : (s.setRa buf len).inbox = s.inbox := rfl
@[simp] theorem State.setRa_responses : (s.setRa buf len).responses = s.responses := rfl

@[simp] theorem State.respond_raBuf : (s.respond r).raBuf = s.raBuf := rfl
@[simp] theorem State.respond_raLen : (s.respond r).raLen = s.raLen := rfl
@[simp] theorem State.respond_cfg : (s.respond r).cfg = s.cfg := rfl
@[simp] theorem State.respond_inbox : (s.respond r).inbox = s.inbox := rfl
@[simp] theorem State.respond_responses : (s.respond r).responses = s.responses ++ [r] := rfl

@[simp] theorem State.issue_raBuf : (s.issue q).raBuf = s.raBuf := rfl
@[simp] theorem State.issue_raLen : (s.issue q).raLen = s.raLen := rfl
@[simp] theorem State.issue_cfg : (s.issue q).cfg = s.cfg := rfl
@[simp] theorem State.issue_inbox : (s.issue q).inbox = s.inbox ++ [q] := rfl
@[simp] theorem State.issue_responses : (s.issue q).responses = s.responses := rfl

/-- Writing back what stands there changes nothing. -/
@[simp] theorem State.setRa_self : s.setRa s.raBuf s.raLen = s := rfl

/-- Nothing is fetched exactly when no request is waiting. -/
theorem State.fetch_eq_none_iff : s.fetch = none ↔ s.inbox = [] := by
  unfold State.fetch; cases s.inbox <;> simp

/-- A fetch takes the oldest request and leaves everything else. -/
theorem State.fetch_of_inbox {rest : List Bytes} (h : s.inbox = q :: rest) :
    s.fetch = some (q, { s with inbox := rest }) := by
  simp [State.fetch, h]

end Sys2Proof.Machine
end

