-- ==== Sys2Proof/Laws/Reassembler.lean ====
section
/-!
SUPPORT. FEED's loop: what placing one work sequence can leave, the loop's equation, and that its bound on
the passes is never met (40_reassembler.md R102 to R108).
-/

namespace Sys2Proof.Machine

/-- The header test is a test of the first two bytes (R101). -/
theorem isHeader_iff (w : Bytes) : isHeader w = true ↔ w.take 2 = [0x06, 0x01] := by
  match w with
  | [] => simp [isHeader]
  | [a] => simp [isHeader]
  | a :: b :: w => simp [isHeader]

/-- A header has at least two bytes. -/
theorem two_le_length_of_isHeader {w : Bytes} (h : isHeader w = true) : 2 ≤ w.length := by
  match w with
  | [] => simp [isHeader] at h
  | [a] => simp [isHeader] at h
  | a :: b :: w => simp

/-- Bytes put after a header leave a header. -/
theorem isHeader_append {w : Bytes} (h : isHeader w = true) (v : Bytes) : isHeader (w ++ v) = true := by
  match w with
  | [] => simp [isHeader] at h
  | [a] => simp [isHeader] at h
  | a :: b :: w => simpa [isHeader] using h

/-- Placing a header of fewer than four bytes (R102). -/
theorem placeWork_shortHeader {work : Bytes} (buf : Bytes) (len : Option Nat) (h : isHeader work = true)
    (hn : work.length < 4) : placeWork buf len work = (work, none) := by
  simp [placeWork, h, Nat.not_le.mpr hn]

/-- Placing a header that holds its length byte (R102). -/
theorem placeWork_header {work : Bytes} (buf : Bytes) (len : Option Nat) (h : isHeader work = true)
    (hn : 4 ≤ work.length) : placeWork buf len work = (work, some (byteAt work 3).toNat) := by
  simp [placeWork, h, hn]

/-- Placing a continuation when no length is known (R103). -/
theorem placeWork_infer {work : Bytes} (buf : Bytes) (h : isHeader work = false) :
    placeWork buf none work = (buf ++ work, some (buf ++ work).length) := by
  simp [placeWork, h]

/-- Placing a continuation when the length is known (R103). -/
theorem placeWork_known {work : Bytes} (buf : Bytes) (l : Nat) (h : isHeader work = false) :
    placeWork buf (some l) work = (buf ++ work, some l) := by
  simp [placeWork, h]

/-- A placed buffer is no longer than the old buffer and the work together. -/
theorem placeWork_length_le (buf : Bytes) (len : Option Nat) (work : Bytes) :
    (placeWork buf len work).1.length ≤ buf.length + work.length := by
  unfold placeWork
  split <;> simp

/-- A bound that reaches the number of bytes still to place is never met: any two such bounds give the
same result (R108). -/
theorem feedLoop_fuel (judge : Bytes → Event) :
    ∀ (m n : Nat) (buf : Bytes) (len : Option Nat) (work : Bytes), work ≠ [] →
      buf.length + work.length ≤ m → buf.length + work.length ≤ n →
      feedLoop judge m buf len work = feedLoop judge n buf len work := by
  intro m
  induction m with
  | zero =>
    intro n buf len work hw hm _
    exact absurd (List.length_eq_zero_iff.mp (by omega)) hw
  | succ m ih =>
    intro n buf len work hw hm hn
    cases n with
    | zero => exact absurd (List.length_eq_zero_iff.mp (by omega)) hw
    | succ n =>
      have hle := placeWork_length_le buf len work
      rcases hp : placeWork buf len work with ⟨b, _ | l⟩
      · simp [feedLoop, hp]
      · simp only [hp] at hle
        simp only [feedLoop, hp]
        split
        · rfl
        · split
          · split
            · rfl
            · rename_i h0 _ hd
              rw [ih n [] none (b.drop l) hd (by simp; omega) (by simp; omega)]
          · rfl

/-- A placed sequence with no length yet is kept, with no event (R102). -/
theorem feedChunk_pending {judge : Bytes → Event} {buf b chunk : Bytes} {len : Option Nat}
    (hc : chunk ≠ []) (hp : placeWork buf len chunk = (b, none)) :
    feedChunk judge buf len chunk = ⟨[], b, none⟩ := by
  obtain ⟨n, hn⟩ : ∃ n, buf.length + chunk.length = n + 1 :=
    ⟨buf.length + chunk.length - 1, by have := List.length_pos_iff.mpr hc; omega⟩
  simp [feedChunk, hc, hn, feedLoop, hp]

/-- A placed sequence shorter than its declared length is kept, with no event (R104). -/
theorem feedChunk_collecting {judge : Bytes → Event} {buf b chunk : Bytes} {len : Option Nat} {l : Nat}
    (hc : chunk ≠ []) (hp : placeWork buf len chunk = (b, some l)) (hl : b.length < l) :
    feedChunk judge buf len chunk = ⟨[], b, some l⟩ := by
  obtain ⟨n, hn⟩ : ∃ n, buf.length + chunk.length = n + 1 :=
    ⟨buf.length + chunk.length - 1, by have := List.length_pos_iff.mpr hc; omega⟩
  simp [feedChunk, hc, hn, feedLoop, hp, Nat.not_le.mpr hl, show l ≠ 0 by omega]

/-- A placed sequence of declared length 0 is discarded with one drop (R105). -/
theorem feedChunk_zeroLength {judge : Bytes → Event} {buf b chunk : Bytes} {len : Option Nat}
    (hc : chunk ≠ []) (hp : placeWork buf len chunk = (b, some 0)) :
    feedChunk judge buf len chunk = ⟨[.drop .zeroLength b], [], none⟩ := by
  obtain ⟨n, hn⟩ : ∃ n, buf.length + chunk.length = n + 1 :=
    ⟨buf.length + chunk.length - 1, by have := List.length_pos_iff.mpr hc; omega⟩
  simp [feedChunk, hc, hn, feedLoop, hp]

/-- A placed sequence that reaches its declared length is cut there, and the rest is fed to an idle
Reassembler (R104). -/
theorem feedChunk_cut {judge : Bytes → Event} {buf b chunk : Bytes} {len : Option Nat} {l : Nat}
    (hc : chunk ≠ []) (hp : placeWork buf len chunk = (b, some l)) (h1 : 1 ≤ l) (hl : l ≤ b.length) :
    feedChunk judge buf len chunk =
      { feedChunk judge [] none (b.drop l) with
        events := judge (b.take l) :: (feedChunk judge [] none (b.drop l)).events } := by
  obtain ⟨n, hn⟩ : ∃ n, buf.length + chunk.length = n + 1 :=
    ⟨buf.length + chunk.length - 1, by have := List.length_pos_iff.mpr hc; omega⟩
  have hle := placeWork_length_le buf len chunk
  simp only [hp] at hle
  simp only [feedChunk, hc, hn, feedLoop, hp, if_false, hl, if_true, show l ≠ 0 by omega]
  split
  · rfl
  · rename_i hd
    rw [feedLoop_fuel judge n ((([] : Bytes).length) + (b.drop l).length) [] none (b.drop l) hd
      (by simp; omega) (by simp)]

/-- Everything placing a delivery can do (R100): one equation of these five holds. -/
theorem feedChunk_cases (judge : Bytes → Event) (buf : Bytes) (len : Option Nat) (chunk : Bytes) :
    (chunk = [] ∧ feedChunk judge buf len chunk = ⟨[], buf, len⟩) ∨
    (chunk ≠ [] ∧ ∃ b, placeWork buf len chunk = (b, none) ∧
      feedChunk judge buf len chunk = ⟨[], b, none⟩) ∨
    (chunk ≠ [] ∧ ∃ b, placeWork buf len chunk = (b, some 0) ∧
      feedChunk judge buf len chunk = ⟨[.drop .zeroLength b], [], none⟩) ∨
    (chunk ≠ [] ∧ ∃ b l, placeWork buf len chunk = (b, some l) ∧ b.length < l ∧
      feedChunk judge buf len chunk = ⟨[], b, some l⟩) ∨
    (chunk ≠ [] ∧ ∃ b l, placeWork buf len chunk = (b, some l) ∧ 1 ≤ l ∧ l ≤ b.length ∧
      feedChunk judge buf len chunk =
        { feedChunk judge [] none (b.drop l) with
          events := judge (b.take l) :: (feedChunk judge [] none (b.drop l)).events }) := by
  by_cases hc : chunk = []
  · exact .inl ⟨hc, by simp [feedChunk, hc]⟩
  · rcases hp : placeWork buf len chunk with ⟨b, _ | l⟩
    · exact .inr (.inl ⟨hc, b, rfl, feedChunk_pending hc hp⟩)
    · rcases Nat.eq_zero_or_pos l with rfl | h1
      · exact .inr (.inr (.inl ⟨hc, b, rfl, feedChunk_zeroLength hc hp⟩))
      · rcases Nat.lt_or_ge b.length l with hl | hl
        · exact .inr (.inr (.inr (.inl ⟨hc, b, l, rfl, hl, feedChunk_collecting hc hp hl⟩)))
        · exact .inr (.inr (.inr (.inr ⟨hc, b, l, rfl, h1, hl, feedChunk_cut hc hp h1 hl⟩)))

/-- A FEED with a legal phase count and a delivery within `CHUNK_MAX` (R100). -/
theorem execFeed_eq (s : State) (p : Phases) (chunk : Bytes) (h : chunk.length ≤ s.cfg.chunkMax) :
    execFeed (phasesByte p) chunk s =
      .next ((s.setRa (feedChunk (process s.cfg p) s.raBuf s.raLen chunk).buf
        (feedChunk (process s.cfg p) s.raBuf s.raLen chunk).len).respond
        (okEvents (feedChunk (process s.cfg p) s.raBuf s.raLen chunk).events)) := by
  simp [execFeed, Nat.not_lt.mpr h]

end Sys2Proof.Machine
end

