-- ==== Sys2Proof/Laws/Meanings.lean ====
section
/-!
SUPPORT. What each shared operation answers, said once: the answers that write only a response, the
payload decodes' two outcomes, and what any meaning can do.
-/

namespace Sys2Proof.Machine

/-- A rejection returns its code and changes nothing else (60_exceptions.md R301). -/
theorem rejectRequest_eq (c : RejectCode) (s : State) :
    rejectRequest c s = .next (s.respond (rejected c)) := rfl

/-- A value operation returns its value and changes nothing else (10_state.md R30). -/
theorem answerValue_eq (v : Value) (s : State) : answerValue v s = .next (s.respond (okValue v)) := rfl

/-- An event operation returns its event and changes nothing else (10_state.md R30). -/
theorem answerEvent_eq (e : Event) (s : State) : answerEvent e s = .next (s.respond (okEvents [e])) := rfl

/-- The event of a valid frame: FRAME with the header, or DECODE_ERROR with the command code, when the payload
decode fails or a kind that reads a field has no payload byte (R150). -/
theorem frameEvent_cases (kind : Kind) (f : Bytes) (r : Decoded Record) :
    (∃ record, r = .ok record ∧ (readsField kind = true → payloadOf f ≠ []) ∧
        frameEvent kind f r = .frame kind (header f) record) ∨
      ((r = .error .payloadShort ∨ (readsField kind = true ∧ payloadOf f = [])) ∧
        frameEvent kind f r = .decodeError (header f).cmd .payloadShort f) := by
  rcases r with reason | record
  · cases reason; exact .inr ⟨.inl rfl, rfl⟩
  · by_cases h : readsField kind = true ∧ payloadOf f = []
    · exact .inr ⟨.inr h, by simp only [frameEvent, if_pos h]⟩
    · exact .inl ⟨record, rfl, fun hk hp => h ⟨hk, hp⟩, by simp only [frameEvent, if_neg h]⟩

/-- A payload byte makes the event the payload decode's own. -/
theorem frameEvent_ok {f : Bytes} (kind : Kind) (record : Record) (h : payloadOf f ≠ []) :
    frameEvent kind f (.ok record) = .frame kind (header f) record := by
  simp [frameEvent, h]

/-- `Process` on a candidate that fails validation (R150). -/
theorem process_of_drop {f : Bytes} {reason : DropReason} (c : Config) (p : Phases)
    (h : validate f = .drop reason) : process c p f = .drop reason f := by
  simp [process, h]

/-- `Process` on a valid frame (R150). -/
theorem process_of_valid {f : Bytes} (c : Config) (p : Phases) (h : validate f = .valid) :
    process c p f = frameEvent (dispatchKind (frameCode f)) f
      (kindDecode c (dispatchKind (frameCode f)) (payloadOf f) p) := by
  simp [process, h]

/-- DECODE with a legal phase count is one `Process` (R150). -/
theorem execDecode_eq (s : State) (p : Phases) (f : Bytes) :
    execDecode (phasesByte p) f s = .next (s.respond (okEvents [process s.cfg p f])) := by
  simp [execDecode, answerEvent]

end Sys2Proof.Machine
end

