-- ==== Sys2Proof/Laws/PerInstr.lean ====
section
/-!
SUPPORT. The per-instruction family `RequestFormat`: the request of a well-formed instruction begins with
the OP byte the opcode table gives it, and its length agrees with that operation's format (30_encoding.md
R60, R61, R63). One lemma per constructor.
-/

namespace Sys2Proof.Laws.RequestFormat

open Sys2Proof.Machine

/-- The OP byte of an instruction's request (R60); a command-code row travels in a DECODE request. -/
def opByte (i : Instr) : Byte :=
  match i with
  | .reset => 0x01
  | .feed _ _ => 0x02
  | .encode _ _ _ _ => 0x03
  | .validate _ => 0x04
  | .csumDec _ => 0x06
  | .csumEnc _ => 0x07
  | .reservedOp op _ => op
  | .decode _ _ => 0x05
  | .loginBeacon _ _ => 0x05
  | .loginResponse _ _ => 0x05
  | .acStatus4 _ _ => 0x05
  | .chargeStatus5 _ _ => 0x05
  | .chargeStatus6 _ _ => 0x05
  | .chargeStartAck _ _ => 0x05
  | .chargeStopAck _ _ => 0x05
  | .acStatus13 _ _ => 0x05
  | .systemTime _ _ => 0x05
  | .version _ _ => 0x05
  | .outputAmps _ _ => 0x05
  | .deviceName _ _ => 0x05
  | .language _ _ => 0x05
  | .temperatureUnit _ _ => 0x05
  | .unknown _ _ => 0x05

/-- The request begins with the OP byte, which is reserved or whose format the length agrees with. -/
def Statement (i : Instr) : Prop :=
  i.wellFormed = true → (encode i).head? = some (opByte i) ∧
    (opReserved (opByte i) || lengthAgrees (opByte i).toNat (encode i)) = true

/-- A `HOST_PD` request's length agrees with its format. -/
theorem requestPhData_length {d : Bytes} (op ph : Byte) (h : countFits d = true) :
    (requestPhData op ph d).length = 4 + u16be (requestPhData op ph d) 2 := by
  have hd : u16be (requestPhData op ph d) 2 = d.length := by
    have := u16be_be16 (v := d.length) (by simpa [countFits] using h) d
    rw [← this, ← u16be_append [op, ph]]; rfl
  rw [hd]; simp [requestPhData]; omega

/-- A `HOST_D` request's length agrees with its format. -/
theorem requestData_length {d : Bytes} (op : Byte) (h : countFits d = true) :
    (requestData op d).length = 3 + u16be (requestData op d) 1 := by
  have hd : u16be (requestData op d) 1 = d.length := by
    have := u16be_be16 (v := d.length) (by simpa [countFits] using h) d
    rw [← this, ← u16be_append [op]]; rfl
  rw [hd]; simp [requestData]; omega

/-- A `HOST_PD` request of FEED or DECODE agrees with its format. -/
theorem lengthAgrees_phData {d : Bytes} (op ph : Byte) (h : countFits d = true) :
    lengthAgrees 2 (requestPhData op ph d) = true ∧ lengthAgrees 5 (requestPhData op ph d) = true := by
  have := requestPhData_length op ph h
  simp only [lengthAgrees, Bool.and_eq_true, decide_eq_true_eq, beq_iff_eq]; omega

/-- A `HOST_D` request of VALIDATE, CSUM_DEC or CSUM_ENC agrees with its format. -/
theorem lengthAgrees_data {d : Bytes} (op : Byte) (h : countFits d = true) :
    lengthAgrees 4 (requestData op d) = true ∧ lengthAgrees 6 (requestData op d) = true ∧
      lengthAgrees 7 (requestData op d) = true := by
  have := requestData_length op h
  simp only [lengthAgrees, Bool.and_eq_true, decide_eq_true_eq, beq_iff_eq]; omega

/-- The DECODE request of a command-code instruction. -/
theorem frame_format {f : Bytes} (ph : Phases) (h : countFits f = true) :
    (requestFrame ph f).head? = some 0x05 ∧
      (opReserved 0x05 || lengthAgrees 5 (requestFrame ph f)) = true :=
  ⟨rfl, (Bool.or_eq_true _ _).mpr (.inr (lengthAgrees_phData 0x05 (phasesByte ph) h).2)⟩

/-- A frame with a code fits a request. -/
theorem countFits_of_code {n : Nat} {f : Bytes} (h : frameHasCode n f = true) : countFits f = true := by
  simp only [frameHasCode, Bool.and_eq_true] at h; exact h.1.1

theorem reset : Statement .reset := fun _ => ⟨rfl, rfl⟩

theorem feed (ph : Byte) (chunk : Bytes) : Statement (.feed ph chunk) := fun h =>
  ⟨rfl, (Bool.or_eq_true _ _).mpr (.inr (lengthAgrees_phData 0x02 ph h).1)⟩

theorem encode (serial : BitVec 64) (password : Bytes) (cmd : BitVec 16) (payload : Bytes) :
    Statement (.encode serial password cmd payload) := fun h => by
  simp only [Instr.wellFormed, Bool.and_eq_true, beq_iff_eq, countFits, decide_eq_true_eq] at h
  refine ⟨rfl, ?_⟩
  have hp : u16be (Sys2Proof.encode (.encode serial password cmd payload)) 17 = payload.length := by
    have h17 : ([0x03] ++ le64 serial.toNat ++ password ++ be16 cmd.toNat : Bytes).length = 17 := by
      simp [h.1]
    rw [← u16be_be16 h.2 payload, ← u16be_append ([0x03] ++ le64 serial.toNat ++ password
      ++ be16 cmd.toNat), h17]
    simp [Sys2Proof.encode]
  have hl : (Sys2Proof.encode (.encode serial password cmd payload)).length = 19 + payload.length := by
    simp [Sys2Proof.encode, h.1]; omega
  refine (Bool.or_eq_true _ _).mpr (.inr ?_)
  change lengthAgrees 3 _ = true
  simp only [lengthAgrees, Bool.and_eq_true, decide_eq_true_eq, beq_iff_eq]; omega

theorem validate (data : Bytes) : Statement (.validate data) := fun h =>
  ⟨rfl, (Bool.or_eq_true _ _).mpr (.inr (lengthAgrees_data 0x04 h).1)⟩

theorem decode (ph : Byte) (f : Bytes) : Statement (.decode ph f) := fun h =>
  ⟨rfl, (Bool.or_eq_true _ _).mpr
    (.inr (lengthAgrees_phData 0x05 ph ((Bool.and_eq_true _ _).mp h).1).2)⟩

theorem csumDec (data : Bytes) : Statement (.csumDec data) := fun h =>
  ⟨rfl, (Bool.or_eq_true _ _).mpr (.inr (lengthAgrees_data 0x06 h).2.1)⟩

theorem csumEnc (data : Bytes) : Statement (.csumEnc data) := fun h =>
  ⟨rfl, (Bool.or_eq_true _ _).mpr (.inr (lengthAgrees_data 0x07 h).2.2)⟩

theorem reservedOp (op : Byte) (operands : Bytes) : Statement (.reservedOp op operands) := fun h =>
  ⟨rfl, by simp only [opByte]; rw [show opReserved op = true from h]; rfl⟩

theorem loginBeacon (ph : Phases) (f : Bytes) : Statement (.loginBeacon ph f) := fun h =>
  frame_format ph (countFits_of_code h)

theorem loginResponse (ph : Phases) (f : Bytes) : Statement (.loginResponse ph f) := fun h =>
  frame_format ph (countFits_of_code h)

theorem acStatus4 (ph : Phases) (f : Bytes) : Statement (.acStatus4 ph f) := fun h =>
  frame_format ph (countFits_of_code h)

theorem chargeStatus5 (ph : Phases) (f : Bytes) : Statement (.chargeStatus5 ph f) := fun h =>
  frame_format ph (countFits_of_code h)

theorem chargeStatus6 (ph : Phases) (f : Bytes) : Statement (.chargeStatus6 ph f) := fun h =>
  frame_format ph (countFits_of_code h)

theorem chargeStartAck (ph : Phases) (f : Bytes) : Statement (.chargeStartAck ph f) := fun h =>
  frame_format ph (countFits_of_code h)

theorem chargeStopAck (ph : Phases) (f : Bytes) : Statement (.chargeStopAck ph f) := fun h =>
  frame_format ph (countFits_of_code h)

theorem acStatus13 (ph : Phases) (f : Bytes) : Statement (.acStatus13 ph f) := fun h =>
  frame_format ph (countFits_of_code h)

theorem systemTime (ph : Phases) (f : Bytes) : Statement (.systemTime ph f) := fun h =>
  frame_format ph (countFits_of_code h)

theorem version (ph : Phases) (f : Bytes) : Statement (.version ph f) := fun h =>
  frame_format ph (countFits_of_code h)

theorem outputAmps (ph : Phases) (f : Bytes) : Statement (.outputAmps ph f) := fun h =>
  frame_format ph (countFits_of_code h)

theorem deviceName (ph : Phases) (f : Bytes) : Statement (.deviceName ph f) := fun h =>
  frame_format ph (countFits_of_code h)

theorem language (ph : Phases) (f : Bytes) : Statement (.language ph f) := fun h =>
  frame_format ph (countFits_of_code h)

theorem temperatureUnit (ph : Phases) (f : Bytes) : Statement (.temperatureUnit ph f) := fun h =>
  frame_format ph (countFits_of_code h)

theorem unknown (ph : Phases) (f : Bytes) : Statement (.unknown ph f) := fun h =>
  frame_format ph (by
    have h' : frameUnassigned f = true := h
    simp only [frameUnassigned, Bool.and_eq_true] at h'
    exact h'.1.1)

end Sys2Proof.Laws.RequestFormat
end

