-- ==== Sys2Proof/Tests/Slice0.lean ====
section
/-!
SUPPORT. Tests and witnesses. The words and the expected results are those of 95_test_vectors.md (its vector
is named at each), under the example configuration of 92_eei_decisions.md; a `witness_` theorem shows values
that meet all the hypotheses of the statement it is named after.
-/

namespace Sys2Proof.Tests

-- One theorem after the other: each kernel evaluation running at once would hold a stack of its own.
set_option Elab.async false

open Sys2Proof.Machine

/-! ### Frames and helpers -/

/-- V-ENC-1. -/
def f1 : Bytes :=
  [0x06, 0x01, 0x00, 0x19, 0x00, 0x08, 0x07, 0x06, 0x05, 0x04, 0x03, 0x02, 0x01, 0x31, 0x32, 0x33,
   0x34, 0x35, 0x36, 0x00, 0x01, 0x01, 0x7A, 0x0F, 0x02]

/-- V-ENC-2, V-CFG-3. -/
def f2 : Bytes :=
  [0x06, 0x01, 0x00, 0x1A, 0x00, 0x08, 0x07, 0x06, 0x05, 0x04, 0x03, 0x02, 0x01, 0x31, 0x32, 0x33,
   0x34, 0x35, 0x36, 0x01, 0x07, 0x10, 0x01, 0x92, 0x0F, 0x02]

/-- V-DEC-1. -/
def f3 : Bytes :=
  [0x06, 0x01, 0x00, 0x19, 0x00, 0x08, 0x07, 0x06, 0x05, 0x04, 0x03, 0x02, 0x01, 0x31, 0x32, 0x33,
   0x34, 0x35, 0x36, 0x00, 0x03, 0x01, 0x7C, 0x0F, 0x02]

/-- V-VAL-6, `f1` with byte 21 changed. -/
def fBad : Bytes :=
  [0x06, 0x01, 0x00, 0x19, 0x00, 0x08, 0x07, 0x06, 0x05, 0x04, 0x03, 0x02, 0x01, 0x31, 0x32, 0x33,
   0x34, 0x35, 0x36, 0x00, 0x01, 0x02, 0x7A, 0x0F, 0x02]

/-- V-LOG-1. -/
def fLogin : Bytes :=
  [0x06, 0x01, 0x00, 0x33, 0x00, 0x08, 0x07, 0x06, 0x05, 0x04, 0x03, 0x02, 0x01, 0x31, 0x32, 0x33,
   0x34, 0x35, 0x36, 0x00, 0x01, 0x0A, 0x41, 0x43, 0x4D, 0x45, 0x00, 0x00, 0x00, 0x00, 0x45, 0x56,
   0x53, 0x45, 0x2D, 0x31, 0x00, 0x00, 0x31, 0x2E, 0x30, 0x00, 0x00, 0x00, 0x1B, 0x58, 0x20, 0x05,
   0x67, 0x0F, 0x02]

/-- V-LOG-2. -/
def fResponse : Bytes :=
  [0x06, 0x01, 0x00, 0x33, 0x00, 0x08, 0x07, 0x06, 0x05, 0x04, 0x03, 0x02, 0x01, 0x31, 0x32, 0x33,
   0x34, 0x35, 0x36, 0x00, 0x02, 0x0A, 0x41, 0x43, 0x4D, 0x45, 0x00, 0x00, 0x00, 0x00, 0x45, 0x56,
   0x53, 0x45, 0x2D, 0x31, 0x00, 0x00, 0x31, 0x2E, 0x30, 0x00, 0x00, 0x00, 0x1B, 0x58, 0x20, 0x05,
   0x68, 0x0F, 0x02]

/-- V-AC-3. -/
def fAc4 : Bytes :=
  [0x06, 0x01, 0x00, 0x30, 0x00, 0x08, 0x07, 0x06, 0x05, 0x04, 0x03, 0x02, 0x01, 0x31, 0x32, 0x33,
   0x34, 0x35, 0x36, 0x00, 0x04, 0x08, 0xFC, 0x09, 0x06, 0x08, 0xF2, 0x03, 0xE8, 0x03, 0xE8, 0x03,
   0xE8, 0x01, 0xF4, 0x4E, 0x20, 0x00, 0x00, 0x05, 0x01, 0x0E, 0x01, 0x00, 0x07, 0xDA, 0x0F, 0x02]

/-- V-AC-5. -/
def fAc13 : Bytes :=
  [0x06, 0x01, 0x00, 0x30, 0x00, 0x08, 0x07, 0x06, 0x05, 0x04, 0x03, 0x02, 0x01, 0x31, 0x32, 0x33,
   0x34, 0x35, 0x36, 0x00, 0x0D, 0x08, 0xFC, 0x00, 0x00, 0x00, 0x00, 0x06, 0x40, 0x00, 0x00, 0x00,
   0x00, 0x30, 0x39, 0x57, 0xE4, 0x00, 0xFF, 0x04, 0x01, 0x0E, 0x00, 0x00, 0x05, 0x9D, 0x0F, 0x02]

/-- V-CS5-1. -/
def fCharge5 : Bytes :=
  [0x06, 0x01, 0x00, 0x28, 0x00, 0x08, 0x07, 0x06, 0x05, 0x04, 0x03, 0x02, 0x01, 0x31, 0x32, 0x33,
   0x34, 0x35, 0x36, 0x00, 0x05, 0x00, 0x00, 0x00, 0x2A, 0x00, 0x00, 0x00, 0x07, 0x01, 0x00, 0x02,
   0x00, 0x64, 0xFF, 0xFF, 0x04, 0x23, 0x0F, 0x02]

/-- V-CS5-2. -/
def fCharge6 : Bytes :=
  [0x06, 0x01, 0x00, 0x28, 0x00, 0x08, 0x07, 0x06, 0x05, 0x04, 0x03, 0x02, 0x01, 0x31, 0x32, 0x33,
   0x34, 0x35, 0x36, 0x00, 0x06, 0x00, 0x00, 0x00, 0x2A, 0x00, 0x00, 0x00, 0x07, 0x01, 0x00, 0x02,
   0x00, 0x64, 0xFF, 0xFF, 0x04, 0x24, 0x0F, 0x02]

/-- V-ACK-1. -/
def fStart : Bytes :=
  [0x06, 0x01, 0x00, 0x1C, 0x00, 0x08, 0x07, 0x06, 0x05, 0x04, 0x03, 0x02, 0x01, 0x31, 0x32, 0x33,
   0x34, 0x35, 0x36, 0x00, 0x07, 0x01, 0x00, 0x10, 0x01, 0x94, 0x0F, 0x02]

/-- V-ACK-2. -/
def fStop : Bytes :=
  [0x06, 0x01, 0x00, 0x1A, 0x00, 0x08, 0x07, 0x06, 0x05, 0x04, 0x03, 0x02, 0x01, 0x31, 0x32, 0x33,
   0x34, 0x35, 0x36, 0x00, 0x08, 0x00, 0x01, 0x82, 0x0F, 0x02]

/-- V-CFG-1. -/
def fTime : Bytes :=
  [0x06, 0x01, 0x00, 0x1D, 0x00, 0x08, 0x07, 0x06, 0x05, 0x04, 0x03, 0x02, 0x01, 0x31, 0x32, 0x33,
   0x34, 0x35, 0x36, 0x01, 0x01, 0x00, 0x5E, 0xD0, 0x65, 0x03, 0x12, 0x0F, 0x02]

/-- V-CFG-2. -/
def fVersion : Bytes :=
  [0x06, 0x01, 0x00, 0x25, 0x00, 0x08, 0x07, 0x06, 0x05, 0x04, 0x03, 0x02, 0x01, 0x31, 0x32, 0x33,
   0x34, 0x35, 0x36, 0x01, 0x06, 0x31, 0x2E, 0x30, 0x32, 0x32, 0x2E, 0x31, 0x30, 0x00, 0x00, 0x00,
   0x05, 0x03, 0x13, 0x0F, 0x02]

/-- V-CFG-4, V-ENC-3. -/
def fName : Bytes :=
  [0x06, 0x01, 0x00, 0x24, 0x00, 0x08, 0x07, 0x06, 0x05, 0x04, 0x03, 0x02, 0x01, 0x31, 0x32, 0x33,
   0x34, 0x35, 0x36, 0x01, 0x08, 0x4D, 0x79, 0x45, 0x56, 0x53, 0x45, 0x00, 0x00, 0x00, 0x00, 0x00,
   0x03, 0x86, 0x0F, 0x02]

/-- V-CFG-5. -/
def fLang : Bytes :=
  [0x06, 0x01, 0x00, 0x1A, 0x00, 0x08, 0x07, 0x06, 0x05, 0x04, 0x03, 0x02, 0x01, 0x31, 0x32, 0x33,
   0x34, 0x35, 0x36, 0x01, 0x0F, 0x02, 0x01, 0x8C, 0x0F, 0x02]

/-- V-CFG-6. -/
def fUnit : Bytes :=
  [0x06, 0x01, 0x00, 0x1A, 0x00, 0x08, 0x07, 0x06, 0x05, 0x04, 0x03, 0x02, 0x01, 0x31, 0x32, 0x33,
   0x34, 0x35, 0x36, 0x01, 0x12, 0x01, 0x01, 0x8E, 0x0F, 0x02]

/-- The standard password `123456`. -/
def password : Bytes := [0x31, 0x32, 0x33, 0x34, 0x35, 0x36]

/-- A machine with the example configuration and the given Reassembler state and requests. -/
def machine (buf : Bytes) (len : Option Nat) (inbox : List Bytes) : State :=
  { raBuf := buf, raLen := len, cfg := Config.excfg, inbox := inbox, responses := [] }

/-- What is left in the Reassembler, and the response, of one step on the request `q`. -/
def served (buf : Bytes) (len : Option Nat) (q : Bytes) : Option (Bytes × Option Nat × List Response) :=
  match step (machine buf len [q]) with
  | .next t => some (t.raBuf, t.raLen, t.responses)
  | .fault _ => none
  | .refused _ => none

/-- The kinds and records of the `FRAME` events that one step on the request `q` returns to an idle
engine. -/
def records (q : Bytes) : List (Kind × Record) :=
  match step (machine [] none [q]) with
  | .next t => (t.responses.flatMap Response.events).filterMap fun e =>
      match e with
      | .frame kind _ record => some (kind, record)
      | .drop _ _ => none
      | .decodeError _ _ _ => none
  | .fault _ => []
  | .refused _ => []

/-- `OK` with events. -/
def okE (events : List Event) : List Response := [okEvents events]

/-- `OK` with a value. -/
def okV (v : Value) : List Response := [okValue v]

/-- A rejection. -/
def rej (c : RejectCode) : List Response := [rejected c]

/-! ### WellFormed refuses each ill-formed term -/

/-- One byte more than a count can say (R61). -/
def tooLong : Bytes := List.replicate 65536 0

theorem test_count_too_long : countFits tooLong = false := by
  rw [countFits, tooLong, List.length_replicate]; rfl

theorem test_wf_feed_long : (Instr.feed 1 tooLong).wellFormed = false := by
  simp [Instr.wellFormed, test_count_too_long]

theorem test_wf_encode_password : (Instr.encode 0 [0x31] 1 []).wellFormed = false := by decide

theorem test_wf_encode_long : (Instr.encode 0 password 1 tooLong).wellFormed = false := by
  simp [Instr.wellFormed, test_count_too_long]

theorem test_wf_data_long : (Instr.validate tooLong).wellFormed = false ∧
    (Instr.csumDec tooLong).wellFormed = false ∧
    (Instr.csumEnc tooLong).wellFormed = false := by
  simp [Instr.wellFormed, test_count_too_long]

theorem test_wf_decode_long : (Instr.decode 0 tooLong).wellFormed = false := by
  simp [Instr.wellFormed, test_count_too_long]

/-- A DECODE of a valid frame with a legal phase count is its command code's instruction. -/
theorem test_wf_decode_goes_on : (Instr.decode 1 f1).wellFormed = false := by decide +kernel

theorem test_wf_reserved_op : (Instr.reservedOp 0x07 []).wellFormed = false := by decide

theorem test_wf_frame_code : (Instr.loginResponse .one fLogin).wellFormed = false := by decide +kernel

theorem test_wf_frame_invalid : (Instr.loginBeacon .one fBad).wellFormed = false := by decide +kernel

theorem test_wf_frame_long : (Instr.loginBeacon .one tooLong).wellFormed = false := by
  simp [Instr.wellFormed, frameHasCode, test_count_too_long]

theorem test_wf_unknown_assigned : (Instr.unknown .one f1).wellFormed = false := by decide +kernel

theorem test_wf_unknown_long : (Instr.unknown .one tooLong).wellFormed = false := by
  simp [Instr.wellFormed, frameUnassigned, test_count_too_long]

/-! ### Decoding: a request written out for every constructor -/

/-- V-HOST-3. -/
theorem test_decode_reset : decode [0x01] = .ok .reset := by decide

/-- R61, `HOST_PD`. -/
theorem test_decode_feed : decode [0x02, 0x03, 0x00, 0x02, 0xAA, 0xBB] = .ok (.feed 3 [0xAA, 0xBB]) := by
  decide

/-- V-ENC-2 with the operands of R61's `HOST_E`. -/
theorem test_decode_encode :
    decode [0x03, 0x08, 0x07, 0x06, 0x05, 0x04, 0x03, 0x02, 0x01, 0x31, 0x32, 0x33, 0x34, 0x35, 0x36, 0x01,
        0x07, 0x00, 0x01, 0x10] =
      .ok (.encode 0x0102030405060708 password 0x0107 [0x10]) := by decide

/-- V-VAL-1. -/
theorem test_decode_validate : decode ([0x04, 0x00, 0x19] ++ f1) = .ok (.validate f1) := by decide

/-- V-DEC-4: the phase count is judged by the meaning. -/
theorem test_decode_decode : decode ([0x05, 0x02, 0x00, 0x19] ++ f1) = .ok (.decode 2 f1) := by decide

/-- V-DEC-3. -/
theorem test_decode_decode_invalid :
    decode ([0x05, 0x01, 0x00, 0x19] ++ fBad) = .ok (.decode 1 fBad) := by decide +kernel

/-- R61, `HOST_D`. -/
theorem test_decode_csumDec : decode [0x06, 0x00, 0x02, 0x10, 0x20] = .ok (.csumDec [0x10, 0x20]) := by
  decide

/-- R61, `HOST_D`. -/
theorem test_decode_csumEnc : decode [0x07, 0x00, 0x02, 0x10, 0x20] = .ok (.csumEnc [0x10, 0x20]) := by
  decide

/-- V-HOST-2. -/
theorem test_decode_reservedOp : decode [0x00] = .ok (.reservedOp 0x00 []) ∧
    decode [0x08] = .ok (.reservedOp 0x08 []) ∧ decode [0xFF] = .ok (.reservedOp 0xFF []) := by decide

/-- V-LOG-1. -/
theorem test_decode_loginBeacon : decode ([0x05, 0x01, 0x00, 0x33] ++ fLogin) = .ok (.loginBeacon .one fLogin) := by
  decide +kernel

/-- V-LOG-2. -/
theorem test_decode_loginResponse : decode ([0x05, 0x01, 0x00, 0x33] ++ fResponse) = .ok (.loginResponse .one fResponse) := by
  decide +kernel

/-- V-AC-3. -/
theorem test_decode_acStatus4 : decode ([0x05, 0x03, 0x00, 0x30] ++ fAc4) = .ok (.acStatus4 .three fAc4) := by
  decide +kernel

/-- V-CS5-1. -/
theorem test_decode_chargeStatus5 : decode ([0x05, 0x01, 0x00, 0x28] ++ fCharge5) = .ok (.chargeStatus5 .one fCharge5) := by
  decide +kernel

/-- V-CS5-2. -/
theorem test_decode_chargeStatus6 : decode ([0x05, 0x01, 0x00, 0x28] ++ fCharge6) = .ok (.chargeStatus6 .one fCharge6) := by
  decide +kernel

/-- V-ACK-1. -/
theorem test_decode_chargeStartAck : decode ([0x05, 0x01, 0x00, 0x1C] ++ fStart) = .ok (.chargeStartAck .one fStart) := by
  decide +kernel

/-- V-ACK-2. -/
theorem test_decode_chargeStopAck : decode ([0x05, 0x01, 0x00, 0x1A] ++ fStop) = .ok (.chargeStopAck .one fStop) := by
  decide +kernel

/-- V-AC-5. -/
theorem test_decode_acStatus13 : decode ([0x05, 0x01, 0x00, 0x30] ++ fAc13) = .ok (.acStatus13 .one fAc13) := by
  decide +kernel

/-- V-CFG-1. -/
theorem test_decode_systemTime : decode ([0x05, 0x01, 0x00, 0x1D] ++ fTime) = .ok (.systemTime .one fTime) := by
  decide +kernel

/-- V-CFG-2. -/
theorem test_decode_version : decode ([0x05, 0x01, 0x00, 0x25] ++ fVersion) = .ok (.version .one fVersion) := by
  decide +kernel

/-- V-ENC-2, V-CFG-3. -/
theorem test_decode_outputAmps : decode ([0x05, 0x01, 0x00, 0x1A] ++ f2) = .ok (.outputAmps .one f2) := by
  decide +kernel

/-- V-CFG-4, V-ENC-3. -/
theorem test_decode_deviceName : decode ([0x05, 0x01, 0x00, 0x24] ++ fName) = .ok (.deviceName .one fName) := by
  decide +kernel

/-- V-CFG-5. -/
theorem test_decode_language : decode ([0x05, 0x01, 0x00, 0x1A] ++ fLang) = .ok (.language .one fLang) := by
  decide +kernel

/-- V-CFG-6. -/
theorem test_decode_temperatureUnit : decode ([0x05, 0x01, 0x00, 0x1A] ++ fUnit) = .ok (.temperatureUnit .one fUnit) := by
  decide +kernel

/-- V-DEC-1. -/
theorem test_decode_unknown : decode ([0x05, 0x01, 0x00, 0x19] ++ f3) = .ok (.unknown .one f3) := by
  decide +kernel

/-- V-HOST-1, V-HOST-4, V-HOST-6, V-HOST-9: the decoder's refusals, by name. -/
theorem test_decode_refuses : decode [] = .error .badOp ∧ decode [0x01, 0x00] = .error .badOperand ∧
    decode [0x02, 0x01, 0x00, 0x03, 0xAA, 0xBB] = .error .badOperand ∧
    decode [0x03, 0x08, 0x07] = .error .badOperand := by decide

/-- The rows of the opcode table read back as their constructors (log 6). -/
theorem test_table_words :
    decodeTableWord 8 0x01 = some .reset ∧ decodeTableWord 8 0x02 = some (.feed 0 []) ∧
      decodeTableWord 16 0x0112 = some (.temperatureUnit .one (buildFrame 0 [0, 0, 0, 0, 0, 0] 274 [])) ∧
      decodeTableWord 0 0 = some (.unknown .one (buildFrame 0 [0, 0, 0, 0, 0, 0] 0 [])) := by
  decide +kernel

/-- With a row's request placed, the next step after reset answers a next state. -/
theorem test_table_word_steps : Continues (step (State.reset.withFetchWord 8 0x01)) ∧
    Continues (step (State.reset.withFetchWord 8 0x06)) ∧
    Continues (step (State.reset.withFetchWord 16 0x0108)) := ⟨⟨_, rfl⟩, ⟨_, rfl⟩, ⟨_, rfl⟩⟩

/-! ### One step of each instruction -/

/-- V-RA-12, PROG-3 line 4: RESET discards five pending bytes with no event. -/
theorem test_reset : served (f2.take 5) (some 26) [0x01] = some ([], none, okE []) := by decide

/-- V-RA-8b: two coalesced frames, the first with a payload too short for its kind. -/
theorem test_feed_coalesced :
    (served [] none (encode (.feed 1 (f1 ++ f2)))).map (fun x => (x.1, x.2.1)) = some ([], none) ∧
      records (encode (.feed 1 (f1 ++ f2))) = [(.outputAmps, .outputAmps 16)] := by decide +kernel

/-- V-RA-17: a delivery that begins with the header magic discards the pending bytes. -/
theorem test_feed_restarts : served (f2.take 21) (some 29)
      [0x02, 0x01, 0x00, 0x08, 0x06, 0x01, 0x41, 0x42, 0x02, 0x10, 0x0F, 0x02] =
    some ([0x06, 0x01, 0x41, 0x42, 0x02, 0x10, 0x0F, 0x02], some 0x42, okE []) := by decide

/-- V-ENC-1. -/
theorem test_encode : served [] none [0x03, 0x08, 0x07, 0x06, 0x05, 0x04, 0x03, 0x02, 0x01, 0x31, 0x32,
      0x33, 0x34, 0x35, 0x36, 0x00, 0x01, 0x00, 0x00] = some ([], none, okV (.frame f1)) := by
  decide +kernel

/-- V-VAL-7: the high length byte is not compared. -/
theorem test_validate_high_length :
    validate [0x06, 0x01, 0x01, 0x19, 0x00, 0x08, 0x07, 0x06, 0x05, 0x04, 0x03, 0x02, 0x01, 0x31, 0x32, 0x33,
      0x34, 0x35, 0x36, 0x00, 0x01, 0x01, 0x7B, 0x0F, 0x02] = .valid := by decide +kernel

/-- V-VAL-6. -/
theorem test_validate_checksum : served [] none (encode (.validate fBad)) =
    some ([], none, okV (.verdict (.drop .checksum))) := by decide +kernel

/-- V-DEC-3. -/
theorem test_decode_drops : served [] none (encode (.decode 1 fBad)) =
    some ([], none, okE [.drop .checksum fBad]) := by decide +kernel

/-- V-DEC-4. -/
theorem test_decode_phase : served [] none (encode (.decode 2 f1)) =
    some ([], none, rej .badOperand) := by decide +kernel

/-- V-CS-3: 257 bytes FF, whose sum is 65535. -/
theorem test_csumDec : csumDec (List.replicate 257 0xFF) = 0xFFFF := by decide +kernel

/-- V-CS-3. -/
theorem test_csumEnc : csumEnc (List.replicate 257 0xFF) = 0x0000 := by decide +kernel

/-- V-HOST-2. -/
theorem test_reservedOp : served (f2.take 5) (some 26) [0x08, 0x55] =
    some (f2.take 5, some 26, rej .badOp) := by decide

/-- V-LOG-1, V-LOG-2: the login record. -/
def loginRecord : Record := .login
  { type := 10, phases := .three
    manufacturer := [0x41, 0x43, 0x4D, 0x45, 0x00, 0x00, 0x00, 0x00]
    model := [0x45, 0x56, 0x53, 0x45, 0x2D, 0x31, 0x00, 0x00], hwVersion := [0x31, 0x2E, 0x30, 0x00]
    powerRaw := 7000, maxAmps := 32 }

theorem test_loginBeacon : records ([0x05, 0x01, 0x00, 0x33] ++ fLogin) = [(.loginBeacon, loginRecord)] := by
  decide +kernel

theorem test_loginResponse :
    records ([0x05, 0x01, 0x00, 0x33] ++ fResponse) = [(.loginResponse, loginRecord)] := by decide +kernel

/-- V-AC-3. -/
theorem test_acStatus4 : records ([0x05, 0x03, 0x00, 0x30] ++ fAc4) =
    [(.acStatus, .acStatus
      { vRaw := ⟨2300, 2310, 2290⟩, aRaw := ⟨1000, 1000, 1000⟩, energyRaw := 500
        voltage := ⟨230, 231, 229⟩, amperage := ⟨10, 10, 10⟩, energy := 1 / 2
        tIn := ⟨false, 0⟩, tOut := ⟨false, -20000⟩, errWidth := 16, errBits := 0x0100, errIndex := 8
        plugState := 5, outputState := 1, currentState := 14, status := 3
        powerMw := 6900000, powerKw := 69 / 10 })] := by decide +kernel

/-- V-AC-5, the record of V-AC-1. -/
theorem test_acStatus13 : records ([0x05, 0x01, 0x00, 0x30] ++ fAc13) =
    [(.acStatus, .acStatus
      { vRaw := ⟨2300, 0, 0⟩, aRaw := ⟨1600, 0, 0⟩, energyRaw := 12345
        voltage := ⟨230, 0, 0⟩, amperage := ⟨16, 0, 0⟩, energy := 2469 / 200
        tIn := ⟨false, 2500⟩, tOut := ⟨true, -100⟩, errWidth := 16, errBits := 0, errIndex := 255
        plugState := 4, outputState := 1, currentState := 14, status := 2
        powerMw := 3680000, powerKw := 92 / 25 })] := by decide +kernel

/-- V-CS5-1, V-CS5-2: the charge-status record. -/
def chargeRecord : Record := .chargeStatus
  { sessionId := [0x00, 0x00, 0x00, 0x2A], userId := [0x00, 0x00, 0x00, 0x07], reservation := 1
    start := 0, chargeType := 2, fees := [⟨100, false, 1⟩, ⟨65535, true, 13107 / 20⟩] }

theorem test_chargeStatus5 :
    records ([0x05, 0x01, 0x00, 0x28] ++ fCharge5) = [(.chargeStatus, chargeRecord)] := by decide +kernel

theorem test_chargeStatus6 :
    records ([0x05, 0x01, 0x00, 0x28] ++ fCharge6) = [(.chargeStatus, chargeRecord)] := by decide +kernel

/-- V-ACK-1. -/
theorem test_chargeStartAck :
    records ([0x05, 0x01, 0x00, 0x1C] ++ fStart) = [(.chargeStartAck, .chargeStartAck ⟨1, 0, 16⟩)] := by
  decide +kernel

/-- V-ACK-2. -/
theorem test_chargeStopAck :
    records ([0x05, 0x01, 0x00, 0x1A] ++ fStop) = [(.chargeStopAck, .chargeStopAck 0)] := by decide +kernel

/-- V-CFG-1. -/
theorem test_systemTime :
    records ([0x05, 0x01, 0x00, 0x1D] ++ fTime) = [(.systemTime, .systemTime 1708154368)] := by
  decide +kernel

/-- V-CFG-2. -/
theorem test_version : records ([0x05, 0x01, 0x00, 0x25] ++ fVersion) =
    [(.version, .version ⟨[0x31, 0x2E, 0x30, 0x32], [0x32, 0x2E, 0x31, 0x30], 5⟩)] := by decide +kernel

/-- V-CFG-3. -/
theorem test_outputAmps :
    records ([0x05, 0x01, 0x00, 0x1A] ++ f2) = [(.outputAmps, .outputAmps 16)] := by decide +kernel

/-- V-CFG-4. -/
theorem test_deviceName : records ([0x05, 0x01, 0x00, 0x24] ++ fName) =
    [(.deviceName, .deviceName [0x4D, 0x79, 0x45, 0x56, 0x53, 0x45, 0, 0, 0, 0, 0])] := by decide +kernel

/-- R150's corner case: a 25-byte DEVICE_NAME frame under `NAME = STR(0, REST)` (log 25). -/
theorem test_deviceName_empty :
    served [] none (encode (.deviceName .one (buildFrame 0 password 264 []))) =
      some ([], none, okE [.decodeError 264 .payloadShort (buildFrame 0 password 264 [])]) := by
  decide +kernel

/-- V-CFG-5. -/
theorem test_language : records ([0x05, 0x01, 0x00, 0x1A] ++ fLang) = [(.language, .language 2)] := by
  decide +kernel

/-- V-CFG-6. -/
theorem test_temperatureUnit :
    records ([0x05, 0x01, 0x00, 0x1A] ++ fUnit) = [(.temperatureUnit, .temperatureUnit 1)] := by
  decide +kernel

/-- V-DEC-1. -/
theorem test_unknown : served [] none ([0x05, 0x01, 0x00, 0x19] ++ f3) =
    some ([], none, okE [.frame .unknown
      { keyType := 0, serial := 0x0102030405060708, password := password, cmd := 3, payload := []
        csum := 0x017C } .unknown]) := by decide +kernel

/-- V-AC-4, V-CFG-4, V-AC-3: the name view. -/
theorem test_names : lookupList Config.excfg.plugNames 200 = "Unknown 200" ∧
    trim .trailing [0x4D, 0x79, 0x45, 0x56, 0x53, 0x45, 0, 0, 0, 0, 0] =
      [0x4D, 0x79, 0x45, 0x56, 0x53, 0x45] ∧
    errorBitString 0x0100 16 = "0000000100000000".toList := by decide

/-- V-LOG-1: the output-power bytes under each setting of `POWER_COMPOSE`. -/
theorem test_powerCompose : [PowerCompose.be, .le, .wordswapBe, .wordswapLe].map
      (fun c => composePower c [0x00, 0x00, 0x1B, 0x58]) = [7000, 1478164480, 458752000, 22555] := by
  decide +kernel

/-- V-AC-8. -/
theorem test_temperature_firstSet : temperature 19900 = ⟨false, -100⟩ ∧ temperature 255 = ⟨true, -100⟩ ∧
    temperature 254 = ⟨false, -19746⟩ ∧ firstSet .lsbFirst 0x8001 16 = 0 ∧ firstSet .msbFirst 0x8001 16 = 0 ∧
    firstSet .lsbFirst 0x80000000 32 = 31 ∧ firstSet .msbFirst 0x80000000 32 = 0 := by decide +kernel

/-- PROG-2 line 6. -/
theorem test_feedSplit : feedSplit 1 [2] fName = [.feed 1 [0x06, 0x01], .feed 1 (fName.drop 2)] := by
  decide

/-- The next state of an answer. -/
def nextOf (r : Result) : Option State :=
  match r with
  | .next t => some t
  | .fault _ => none
  | .refused _ => none

/-- R66: LOOPBACK of the operands of V-ENC-2 ends with the event of `f2`. -/
theorem test_loopback :
    (nextOf (execLoopback 1 0x0102030405060708 password 0x0107 [0x10] (machine [] none []))).map
        State.responses =
      some (okV (.frame f2) ++ okE [.frame .outputAmps (header f2) (.outputAmps 16)]) := by decide +kernel

/-- R65. -/
theorem test_asmLine : asmLine (.feed 3 [0xAB, 0x01]) = "FEED ph=3, AB 01".toList := by decide
/-! ### Witnesses: values that meet the hypotheses of each statement -/

theorem witness_DecodeOfEncodeIsTheInstruction :
    (Instr.encode 0x0102030405060708 password 0xFFFF []).wellFormed = true ∧
      (Instr.feed 0 [0xAA]).wellFormed = true ∧ (Instr.decode 2 f1).wellFormed = true ∧
      (Instr.reservedOp 0xFF [1, 2]).wellFormed = true ∧ (Instr.unknown .three f3).wellFormed = true ∧
      (Instr.loginBeacon .one fLogin).wellFormed = true := by decide +kernel

theorem witness_EncodeOfDecodeIsTheRequest : decode [0x07, 0x00, 0x01, 0xFF] = .ok (.csumEnc [0xFF]) ∧
    decode ([0x05, 0x03, 0x00, 0x1A] ++ f2) = .ok (.outputAmps .three f2) := by decide +kernel

theorem witness_DispatchFollowsTheCommandCodeMap :
    (0 : Nat) ∉ [1, 2, 4, 13, 5, 6, 7, 8, 257, 262, 263, 264, 271, 274] ∧
      (3 : Nat) ∉ [1, 2, 4, 13, 5, 6, 7, 8, 257, 262, 263, 264, 271, 274] ∧
      (65535 : Nat) ∉ [1, 2, 4, 13, 5, 6, 7, 8, 257, 262, 263, 264, 271, 274] := by decide

theorem witness_StepRunsTheDecodedInstruction : (Instr.outputAmps .one f2).wellFormed = true ∧
    (machine [] none [encode (.outputAmps .one f2), [0x01]]).inbox =
      encode (.outputAmps .one f2) :: [[0x01]] := by decide +kernel

theorem witness_StepWithoutRequestChangesNothing : (machine [0x06, 0x01] none []).inbox = [] := rfl

/-- The variant of V-HOST-7 and V-ENC-8: `CHUNK_MAX` 64 and `ENC_MAX_PAYLOAD` 8. -/
def small : Config := { Config.excfg with chunkMax := 64, encMaxPayload := 8 }

/-- Each check fails on some request, at the boundary of its rule, and some request passes them all: V-HOST-1,
V-HOST-2, V-HOST-4, V-HOST-5, V-HOST-7, V-HOST-8, V-ENC-8. -/
theorem witness_RequestChecksDecideRejection :
    { machine [] none [[]] with cfg := small }.inbox = [] :: [] ∧
      requestCheck small [] = some .badOp ∧ requestCheck small [0x08] = some .badOp ∧
      requestCheck small [0x01, 0x00] = some .badOperand ∧
      requestCheck small [0x02, 0x02, 0x00, 0x00] = some .badOperand ∧
      requestCheck small ([0x02, 0x01, 0x00, 0x41] ++ List.replicate 65 0) = some .chunkTooLong ∧
      requestCheck small ([0x02, 0x02, 0x00, 0x41] ++ List.replicate 65 0) = some .badOperand ∧
      requestCheck small (encode (.encode 0 password 1 (List.replicate 9 0))) = some .encTooLong ∧
      requestCheck small ([0x02, 0x01, 0x00, 0x40] ++ List.replicate 64 0) = none ∧
      requestCheck small (encode (.encode 0 password 1 (List.replicate 8 0))) = none := by
  decide +kernel

theorem witness_EachRequestGetsOneResponse : (machine [] none [[0x06, 0x00, 0x00], [0x01]]).inbox =
      [0x06, 0x00, 0x00] :: [[0x01]] ∧
    ∃ t, step (machine [] none [[0x06, 0x00, 0x00], [0x01]]) = .next t := ⟨rfl, _, rfl⟩

theorem witness_NoStepWritesTheConfiguration : ∃ t, step (machine [0x06, 0x01] none [[0x01]]) = .next t :=
  ⟨_, rfl⟩

/-- A step from a pending frame: the FEED of `f2` after its first five bytes. -/
theorem witness_StepKeepsTheInvariant :
    (machine (f2.take 5) (some 26) [encode (.feed 1 (f2.drop 5))]).inv = true ∧
      ∃ t, step (machine (f2.take 5) (some 26) [encode (.feed 1 (f2.drop 5))]) = .next t :=
  ⟨by decide +kernel, _, rfl⟩

/-- The three phases, at the ends of their ranges. -/
theorem witness_InvariantGivesPhaseAndBound : raInv [] none = true ∧ raInv [0x06, 0x01] none = true ∧
    raInv [0x06, 0x01, 0x07] none = true ∧ raInv [0x06, 0x01, 0x00, 0x05] (some 5) = true ∧
    raInv ([0x06, 0x01, 0x00, 0xFF] ++ List.replicate 250 0xAA) (some 255) = true := by decide +kernel

theorem witness_OperationsSeeOnlyTheReassemblerAndTheConfiguration :
    (machine [0x06, 0x01] none []).raBuf = (machine [0x06, 0x01] none [[0x01]]).raBuf ∧
      (machine [0x06, 0x01] none []).raLen = (machine [0x06, 0x01] none [[0x01]]).raLen ∧
      (machine [0x06, 0x01] none []).cfg = (machine [0x06, 0x01] none [[0x01]]).cfg ∧
      machine [0x06, 0x01] none [] ≠ machine [0x06, 0x01] none [[0x01]] := by decide +kernel

theorem witness_StatelessOperationsWriteOnlyTheirResponse : stateless (.decode 1 f1) = true ∧
    (machine [] none []).cfg = (machine (f2.take 5) (some 26) []).cfg := ⟨rfl, rfl⟩

theorem witness_StatelessOperationsCommute : stateless (.csumDec [0xFF]) = true := rfl

theorem witness_CsumDecIsTheSumModulo65536 : (List.replicate 65535 (0xFF : Byte)).length < 65536 := by
  rw [List.length_replicate]; omega

theorem witness_CsumEncIsTheSumModulo65535 : ([] : Bytes).length < 65536 ∧
    (List.replicate 65535 (0xFF : Byte)).length < 65536 := by
  rw [List.length_replicate]; exact ⟨by decide, by omega⟩

theorem witness_ChecksumsAgreeBelow65535 : byteSum (List.replicate 257 0xFF) < 65535 * 65536 ∧
    password.length = 6 ∧ (List.replicate 240 (0xFF : Byte)).length ≤ 240 ∧
    (List.replicate 65510 (0xFF : Byte)).length ≤ 65510 := by
  rw [List.length_replicate, List.length_replicate]; exact ⟨by decide +kernel, rfl, le_rfl, le_rfl⟩

/-- At a length byte of 0, at one below the least frame, and at the whole candidate. -/
theorem witness_HeaderCandidatePassesHeaderAndLength :
    ([0x06, 0x01, 0x00, 0x00] : Bytes).take 2 = [0x06, 0x01] ∧
      ([0x06, 0x01, 0x00, 0x00] : Bytes)[3]? = some 0 ∧ (0 : Byte).toNat ≤ 4 ∧
      f2.take 2 = [0x06, 0x01] ∧ f2[3]? = some 26 ∧ (26 : Byte).toNat ≤ f2.length := by decide

/-- V-VAL-9: a byte of each place, raised by one; V-VAL-8: byte 5 raised and byte 6 lowered, and the two ends
of the summed part after the length. -/
theorem witness_SingleByteAlterationIsDetected : validate f1 = .valid ∧ f1.length ≤ 65535 ∧
    24 < f1.length ∧ f1[0]? ≠ some 0x07 ∧ f1[1]? ≠ some 0x02 ∧ f1[2]? ≠ some 0x01 ∧ f1[3]? ≠ some 0x1A ∧
    f1[4]? ≠ some 0x01 ∧ f1[22]? ≠ some 0x7B ∧ f1[23]? ≠ some 0x10 ∧ f1[24]? ≠ some 0x03 ∧
    6 < f1.length - 4 ∧ (0x09 : Byte).toNat + (0x06 : Byte).toNat =
      (f1.getD 5 0).toNat + (f1.getD 6 0).toNat ∧
    20 < f1.length - 4 ∧ (0x01 : Byte).toNat + (0x00 : Byte).toNat =
      (f1.getD 4 0).toNat + (f1.getD 20 0).toNat := by
  decide +kernel

/-- A field that ends at the payload's end, and one byte beyond it. -/
theorem witness_FieldReadFollowsItsRule : 1 + 4 ≤ password.length ∧ 2 + 4 ≤ password.length ∧
    password.length < 3 + 4 ∧ 6 ≤ password.length ∧ password.length < 7 := by decide

theorem witness_LookupGivesEntryOrPlaceholder : ["a", "b"][1]? = some "b" ∧ ["a", "b"].length ≤ 2 ∧
    ((7, "x") : Nat × String) ∈ [(1, "w"), (7, "x")] ∧ ([(1, "w"), (7, "x")].map Prod.fst).Nodup ∧
    2 ∉ [(1, "w"), (7, "x")].map Prod.fst := by decide

/-- The fields of `f3`. -/
theorem witness_HeaderReadsEachField : (f3.drop 2).take 2 = [0x00, 0x19] ∧
    ((f3.drop 5).take 8).length = 8 ∧ ((f3.drop 13).take 6).length = 6 ∧
    ((f3.drop 19).take 2).length = 2 ∧ ((f3.drop 21).take 2).length = 2 ∧ (f3.drop 23).length = 2 := by
  decide

/-- A payload of just `ENC_MAX_PAYLOAD` bytes, and one byte more. -/
theorem witness_EncodeBuildsTheFrame :
    (List.replicate 8 (0 : Byte)).length ≤ { machine [] none [] with cfg := small }.cfg.encMaxPayload ∧
      { machine [] none [] with cfg := small }.cfg.encMaxPayload < (List.replicate 9 (0 : Byte)).length := by
  decide

/-- Both outcomes: OUTPUT_AMPS of one byte fits, LOGIN_BEACON of none does not; 230 and 240 are allowed. -/
theorem witness_EncodeThenDecodeRecoversTheOperands : password.length = 6 ∧
    (List.replicate 240 (0 : Byte)).length ≤ 240 ∧ (List.replicate 230 (0 : Byte)).length ≤ 230 ∧
    (List.replicate 240 (0 : Byte)).length ≤ (machine [] none []).cfg.encMaxPayload ∧
    payloadDecodes (machine [] none []).cfg (dispatchKind 263) 1 = true ∧
    payloadDecodes (machine [] none []).cfg (dispatchKind 3) 0 = true ∧
    payloadDecodes (machine [] none []).cfg (dispatchKind 1) 0 = false ∧
    payloadDecodes (machine [] none []).cfg (dispatchKind 264) 0 = false ∧
    (machine [] none []).raBuf = [] ∧ (machine [] none []).raLen = none ∧
    f2.length ≤ (machine [] none []).cfg.chunkMax := by decide +kernel

theorem witness_ReservedOpIsRejected : (0x00 : Byte).toNat = 0 ∧ 8 ≤ (0x08 : Byte).toNat ∧
    8 ≤ (0xFF : Byte).toNat := by decide

theorem witness_FeedIsRejectedOrRuns : (2 : Byte).toNat ≠ 1 ∧ (2 : Byte).toNat ≠ 3 ∧ (1 : Byte).toNat = 1 ∧
    (3 : Byte).toNat = 3 ∧ small.chunkMax < (List.replicate 65 (0 : Byte)).length ∧
    (List.replicate 64 (0 : Byte)).length ≤ small.chunkMax := by decide

/-- Two and three bytes; and four bytes, one below the declared length. -/
theorem witness_HeaderDeliveryStartsAFrame :
    ([0x06, 0x01] : Bytes).take 2 = [0x06, 0x01] ∧ ([0x06, 0x01] : Bytes).length < 4 ∧
      ([0x06, 0x01, 0x00] : Bytes).take 2 = [0x06, 0x01] ∧ ([0x06, 0x01, 0x00] : Bytes).length < 4 ∧
      ([0x06, 0x01, 0x00, 0x05] : Bytes).length ≤ (machine [] none []).cfg.chunkMax ∧
      ([0x06, 0x01, 0x00, 0x05] : Bytes).take 2 = [0x06, 0x01] ∧
      ([0x06, 0x01, 0x00, 0x05] : Bytes)[3]? = some 0x05 ∧
      ([0x06, 0x01, 0x00, 0x05] : Bytes).length < (0x05 : Byte).toNat := by decide

/-- With no length known; and with one known, the delivery that leaves the frame one byte short. -/
theorem witness_ContinuationExtendsTheFrame : (f2.take 25).drop 5 ≠ [] ∧
    ((f2.take 25).drop 5).length ≤ (machine [] none []).cfg.chunkMax ∧
    ((f2.take 25).drop 5).take 2 ≠ [0x06, 0x01] ∧ (machine [0x06, 0x01] none []).raLen = none ∧
    (machine (f2.take 5) (some 26) []).raLen = some 26 ∧
    ((machine (f2.take 5) (some 26) []).raBuf ++ (f2.take 25).drop 5).length < 26 := by decide

theorem witness_ZeroLengthHeaderIsDiscarded :
    ([0x06, 0x01, 0x00, 0x00] : Bytes).length ≤ (machine [] none []).cfg.chunkMax ∧
      ([0x06, 0x01, 0x00, 0x00] : Bytes).take 2 = [0x06, 0x01] ∧
      ([0x06, 0x01, 0x00, 0x00] : Bytes)[3]? = some 0 := by decide

/-- A header delivery of exactly the declared length; one whose length byte is 1 (V-RA-15); and a
continuation that completes a pending frame. -/
theorem witness_CompleteFrameIsCutAndTheRestReentered :
    raInv (machine [] none []).raBuf (machine [] none []).raLen = true ∧ f2 ≠ [] ∧
      f2.length ≤ (machine [] none []).cfg.chunkMax ∧
      (f2.take 2 = [0x06, 0x01] ∧ f2[3]?.map BitVec.toNat = some 26 ∧ 26 ≤ f2.length) ∧
      (([0x06, 0x01, 0x00, 0x01, 0x09, 0x09] : Bytes).take 2 = [0x06, 0x01] ∧
        ([0x06, 0x01, 0x00, 0x01, 0x09, 0x09] : Bytes)[3]?.map BitVec.toNat = some 1) ∧
      raInv (machine (f2.take 5) (some 26) []).raBuf (machine (f2.take 5) (some 26) []).raLen = true ∧
      (f2.drop 5).take 2 ≠ [0x06, 0x01] ∧ (machine (f2.take 5) (some 26) []).raLen = some 26 ∧
      26 ≤ ((machine (f2.take 5) (some 26) []).raBuf ++ f2.drop 5).length := by decide

theorem witness_FeedEmitsAtMostOneEventPerByte :
    raInv (machine (f2.take 5) (some 26) []).raBuf (machine (f2.take 5) (some 26) []).raLen = true ∧
      (f2.drop 5).length ≤ (machine (f2.take 5) (some 26) []).cfg.chunkMax := by decide

/-- What DECODE answers, from the event of its candidate. -/
theorem test_decode_answers {f : Bytes} {e : Event} (inbox : List Bytes)
    (h : process Config.excfg .one f = e) :
    exec (.decode (phasesByte .one) f) (machine [] none inbox) =
      .next { machine [] none inbox with responses := (machine [] none inbox).responses ++
        [{ status := .ok, events := [e], value := none }] } := by
  subst h; rfl

/-- (a) `f2` in pieces of 4, 0 and 22 bytes; (b) `f2` in pieces of 2 and 24 bytes, and of 3 and 23. The
machine is idle, its inbox holds the FEEDs of the pieces, and DECODE of `f2` answers a FRAME. -/
theorem witness_SplitFrameIsReassembledOnce :
    (∀ x ∈ [(f2.take 4, [[], f2.drop 4]), (f2.take 2, [f2.drop 2]), (f2.take 3, [f2.drop 3])],
      x.1 ++ x.2.flatten = f2 ∧ (x.1 ++ x.2.flatten).length ≤ 255 ∧
        (∀ piece ∈ x.1 :: x.2, piece.length ≤ Config.excfg.chunkMax) ∧
        (∀ piece ∈ x.2, piece.take 2 ≠ [0x06, 0x01]) ∧
        (4 ≤ x.1.length ∨ ((x.1.length = 2 ∨ x.1.length = 3) ∧ x.2.length = 1))) ∧
    ∀ inbox, (machine [] none inbox).raBuf = [] ∧ (machine [] none inbox).raLen = none ∧
      (machine [] none inbox).inbox = inbox ∧
      exec (.decode (phasesByte .one) f2) (machine [] none inbox) =
        .next { machine [] none inbox with responses := (machine [] none inbox).responses ++
          [{ status := .ok, events := [.frame .outputAmps (header f2) (.outputAmps 16)],
             value := none }] } :=
  ⟨by decide +kernel, fun inbox => ⟨rfl, rfl, rfl, test_decode_answers inbox (by decide +kernel)⟩⟩

/-- `f3` and `f2` (V-RA-8). -/
theorem witness_CoalescedFramesAreEmittedInOrder :
    (machine [] none []).raBuf = [] ∧ (machine [] none []).raLen = none ∧ f3.length ≤ 255 ∧
      f2.length ≤ 255 ∧ (f3 ++ f2).length ≤ (machine [] none []).cfg.chunkMax ∧
      exec (.decode (phasesByte .one) f3) (machine [] none []) =
        .next { machine [] none [] with responses := (machine [] none []).responses ++
          [{ status := .ok, events := [.frame .unknown (header f3) .unknown], value := none }] } ∧
      exec (.decode (phasesByte .one) f2) (machine [] none []) =
        .next { machine [] none [] with responses := (machine [] none []).responses ++
          [{ status := .ok, events := [.frame .outputAmps (header f2) (.outputAmps 16)],
             value := none }] } :=
  ⟨rfl, rfl, by decide, by decide, by decide, test_decode_answers [] (by decide +kernel),
    test_decode_answers [] (by decide +kernel)⟩

theorem witness_DecodeDropsAnInvalidCandidate : (1 : Byte).toNat = 1 ∧ (3 : Byte).toNat = 3 ∧
    validate (f1.take 24) = .drop .short ∧ validate fBad = .drop .checksum ∧ (2 : Byte).toNat ≠ 1 ∧
    (2 : Byte).toNat ≠ 3 := by decide +kernel

theorem witness_DecodeOfAValidFrameIsItsKind : validate f1 = .valid ∧ validate fLogin = .valid := by
  decide +kernel

/-- `f2` holds its field and `f1` does not hold the login fields. -/
theorem witness_DecodeErrorExactlyWhenAFieldDoesNotFit :
    validate f2 = .valid ∧
      payloadDecodes Config.excfg (dispatchKind (frameCode f2)) (f2.length - 25) = true ∧
      validate f1 = .valid ∧
      payloadDecodes Config.excfg (dispatchKind (frameCode f1)) (f1.length - 25) = false := by decide +kernel

/-- 26 bytes are enough for the login fields and 25 are not (V-LOG-4). -/
theorem witness_LoginFramesDecode :
    fieldsFit (machine [] none []).cfg .loginBeacon (payloadOf fLogin).length = true ∧
      (payloadOf fLogin).length = 26 ∧ fieldsFit Config.excfg .loginBeacon 25 = false ∧
      fieldsFit (machine [] none []).cfg .loginBeacon (payloadOf f1).length = false := by decide +kernel

theorem witness_PhaseCountOfADeviceType : (10 ≤ 10 ∧ 10 ≤ 15) ∧ (10 ≤ 15 ∧ 15 ≤ 15) ∧ (22 ≤ 22 ∧ 22 ≤ 25) ∧
    (22 ≤ 25 ∧ 25 ≤ 25) ∧ ¬((10 ≤ 16 ∧ 16 ≤ 15) ∨ (22 ≤ 16 ∧ 16 ≤ 25)) := by decide

theorem witness_AcStatusFramesDecode :
    fieldsFit (machine [] none []).cfg .acStatus (payloadOf fAc4).length = true ∧
      fieldsFit (machine [] none []).cfg .acStatus (payloadOf fAc13).length = true ∧
      fieldsFit Config.excfg .acStatus 20 = false ∧
      fieldsFit (machine [] none []).cfg .acStatus (payloadOf f1).length = false := by decide +kernel

theorem witness_TemperatureSentinelAndFormula : (254 : Nat) ≠ 255 ∧ (256 : Nat) ≠ 255 := by decide

/-- V-AC-8, and a field with no bit set. -/
theorem witness_FirstSetBitFromEitherEnd : (0 : Nat) < 2 ^ 16 ∧ (0x8001 : Nat) < 2 ^ 16 ∧ 0x8001 ≠ 0 ∧
    (0x80000000 : Nat) < 2 ^ 32 ∧ 0x80000000 ≠ 0 ∧ (254 : Nat) ≠ 255 := by decide

/-- A zero reading on line 2 only, which one phase does not see and three do. -/
theorem witness_PowerIsTheSumOrZero :
    (let v : PerLine Nat := ⟨2300, 2310, 2290⟩
     let a : PerLine Nat := ⟨1000, 0, 1000⟩
     ¬(v.l1 = 0 ∨ a.l1 = 0) ∧
       (v.l1 = 0 ∨ a.l1 = 0 ∨ v.l2 = 0 ∨ a.l2 = 0 ∨ v.l3 = 0 ∨ a.l3 = 0)) ∧
    (let v : PerLine Nat := ⟨0, 1, 1⟩
     let a : PerLine Nat := ⟨1, 1, 1⟩
     v.l1 = 0 ∨ a.l1 = 0) ∧
    let v : PerLine Nat := ⟨1, 1, 1⟩
    let a : PerLine Nat := ⟨1, 1, 1⟩
    ¬(v.l1 = 0 ∨ a.l1 = 0 ∨ v.l2 = 0 ∨ a.l2 = 0 ∨ v.l3 = 0 ∨ a.l3 = 0) := by decide

/-- V-AC-7: `PLUG_CU` 5, a current state outside the table, and a plug state that is neither code. -/
theorem witness_ChargingStatusFollowsItsTable : (5 : Byte).toNat ≠ 4 ∧
    (16 : Nat) ∉ [13, 14, 15, 17, 20, 12, 1, 10, 11, 2, 3] ∧ (3 : Nat) ≠ 4 ∧ (3 : Nat) ≠ (5 : Byte).toNat ∧
    (List.map (fun x => chargingStatus 5 x.1 x.2)
      [(13, 0), (14, 4), (14, 5), (14, 0), (15, 4), (15, 5), (15, 3), (17, 9), (20, 4), (12, 4), (1, 4),
        (10, 4), (11, 4), (2, 4), (3, 0), (0, 4), (16, 4), (255, 255)]) =
      [1, 2, 3, 0, 4, 4, 0, 5, 6, 7, 8, 9, 10, 11, 11, 0, 0, 0] := by decide

theorem witness_ChargeStatusFramesDecode :
    fieldsFit (machine [] none []).cfg .chargeStatus (payloadOf fCharge5).length = true ∧
      (payloadOf fCharge5).length = 15 ∧ fieldsFit Config.excfg .chargeStatus 14 = false ∧
      fieldsFit (machine [] none []).cfg .chargeStatus (payloadOf f1).length = false := by decide +kernel

theorem witness_ChargeAcknowledgementsDecode :
    fieldsFit (machine [] none []).cfg .chargeStartAck (payloadOf fStart).length = true ∧
      fieldsFit (machine [] none []).cfg .chargeStopAck (payloadOf fStop).length = true ∧
      fieldsFit (machine [] none []).cfg .chargeStartAck (payloadOf f1).length = false ∧
      fieldsFit (machine [] none []).cfg .chargeStopAck (payloadOf f1).length = false := by decide +kernel

/-- A name in an empty payload does not decode, nor one that starts beyond the payload. -/
theorem witness_ConfigurationFramesDecode :
    fieldsFit (machine [] none []).cfg .systemTime (payloadOf fTime).length = true ∧
      fieldsFit (machine [] none []).cfg .version (payloadOf fVersion).length = true ∧
      fieldsFit (machine [] none []).cfg .outputAmps (payloadOf f2).length = true ∧
      payloadDecodes (machine [] none []).cfg .deviceName (payloadOf fName).length = true ∧
      payloadDecodes (machine [] none []).cfg .deviceName 1 = true ∧
      payloadDecodes (machine [] none []).cfg .deviceName (payloadOf f1).length = false ∧
      fieldsFit (machine [] none []).cfg .systemTime (payloadOf f1).length = false ∧
      fieldsFit (machine [] none []).cfg .version (payloadOf f1).length = false ∧
      fieldsFit (machine [] none []).cfg .outputAmps (payloadOf f1).length = false ∧
      payloadDecodes { Config.excfg with name := ⟨2, .rest⟩ } .deviceName (payloadOf f2).length = false := by
  decide +kernel

theorem witness_CodeAndUnknownFramesDecode :
    fieldsFit (machine [] none []).cfg .language (payloadOf fLang).length = true ∧
      fieldsFit (machine [] none []).cfg .temperatureUnit (payloadOf fUnit).length = true ∧
      fieldsFit (machine [] none []).cfg .language (payloadOf f1).length = false ∧
      fieldsFit (machine [] none []).cfg .temperatureUnit (payloadOf f1).length = false := by
  decide +kernel

/-- A FEED that returned the login event of V-LOG-1. -/
theorem witness_DutyPhasesFollowLoginAndReset : Instr.feed 1 fLogin ≠ .reset ∧
    (okEvents [.frame .loginBeacon (header fLogin) loginRecord]).events =
      [.frame .loginBeacon (header fLogin) loginRecord] := by decide +kernel

/-- Cuts at 0, at 2 twice, and at the end. -/
theorem witness_FeedSplitPiecesJoin : List.Pairwise (· ≤ ·) [0, 2, 2, 26] ∧
    ∀ k ∈ [0, 2, 2, 26], k ≤ f2.length := by decide

/-- A 25-byte DEVICE_NAME frame, and `f3`. -/
theorem witness_EmptyPayloadIsADecodeErrorUnlessUnknown :
    validate (buildFrame 0 password 264 []) = .valid ∧ (buildFrame 0 password 264 []).length = 25 ∧
      dispatchKind (frameCode (buildFrame 0 password 264 [])) ≠ .unknown ∧
      validate f3 = .valid ∧ f3.length = 25 ∧ dispatchKind (frameCode f3) = .unknown := by decide +kernel

end Sys2Proof.Tests
end

/-!
PROOFS. The state family (10_state.md): R27's invariant, what one operation and one step can do to the
state, and the statements O10, O12, O13, O14 and O17.
-/

/-! ### R27's invariant, case by case -/

namespace Sys2Proof.Machine

/-- Without a declared length R27 admits IDLE and a header of two or three bytes. -/
theorem raInv_none_iff (buf : Bytes) :
    raInv buf none = true ↔
      buf = [] ∨ (isHeader buf = true ∧ (buf.length = 2 ∨ buf.length = 3)) := by
  simp [raInv]

/-- With a declared length R27 admits a header that holds that length and has not reached it. -/
theorem raInv_some_iff (buf : Bytes) (l : Nat) :
    raInv buf (some l) = true ↔
      5 ≤ l ∧ l ≤ 255 ∧ isHeader buf = true ∧ (byteAt buf 3).toNat = l ∧ 4 ≤ buf.length ∧
        buf.length < l := by
  simp [raInv, and_assoc]

@[simp] theorem raInv_idle : raInv [] none = true := rfl

/-- A buffer that still waits for a declared length read from its own header is R27's third case: four
bytes below the length put it at 5 or more, and one byte cannot declare more than 255. -/
theorem raInv_of_header_lt {b : Bytes} {l : Nat} (hh : isHeader b = true)
    (hb : (byteAt b 3).toNat = l) (hn : 4 ≤ b.length) (hl : b.length < l) :
    raInv b (some l) = true := by
  have hbyte : (byteAt b 3).toNat < 256 := (byteAt b 3).isLt
  exact (raInv_some_iff b l).mpr ⟨by omega, by omega, hh, hb, hn, hl⟩

/-- The machine's invariant is R27's on the Reassembler and R8 and R10's on the configuration. -/
theorem State.inv_iff (s : State) :
    s.inv = true ↔ raInv s.raBuf s.raLen = true ∧ s.cfg.wf = true := by
  simp [State.inv]

/-! ### The phase, read off the state -/

theorem State.phase_idle {s : State} (hlen : s.raLen = none) (hbuf : s.raBuf = []) :
    s.phase = some .idle := by
  simp [State.phase, hlen, hbuf]

theorem State.phase_hdrNoLen {s : State} (hlen : s.raLen = none) (hh : isHeader s.raBuf = true)
    (hn : s.raBuf.length ≤ 3) : s.phase = some .hdrNoLen := by
  have hne : s.raBuf ≠ [] := by
    rintro e
    simp [e, isHeader] at hh
  simp [State.phase, hlen, hne, hn, (isHeader_iff _).mp hh]

theorem State.phase_collecting {s : State} {l : Nat} (hlen : s.raLen = some l)
    (hn : s.raBuf.length < l) : s.phase = some (.collecting l) := by
  simp [State.phase, hlen, hn]

/-! ### FEED keeps R27's invariant -/

/-- All that placing one work sequence can do (R102, R103). -/
theorem placeWork_cases (buf : Bytes) (len : Option Nat) (work : Bytes) :
    (isHeader work = true ∧ work.length < 4 ∧ placeWork buf len work = (work, none)) ∨
    (isHeader work = true ∧ 4 ≤ work.length ∧
      placeWork buf len work = (work, some (byteAt work 3).toNat)) ∨
    (isHeader work = false ∧ len = none ∧
      placeWork buf len work = (buf ++ work, some (buf ++ work).length)) ∨
    (isHeader work = false ∧ ∃ l, len = some l ∧ placeWork buf len work = (buf ++ work, some l)) := by
  cases hh : isHeader work with
  | true =>
    rcases Nat.lt_or_ge work.length 4 with hn | hn
    · exact .inl ⟨rfl, hn, placeWork_shortHeader buf len hh hn⟩
    · exact .inr (.inl ⟨rfl, hn, placeWork_header buf len hh hn⟩)
  | false =>
    cases len with
    | none => exact .inr (.inr (.inl ⟨rfl, rfl, placeWork_infer buf hh⟩))
    | some l => exact .inr (.inr (.inr ⟨rfl, l, rfl, placeWork_known buf l hh⟩))

/-- Only a short header is placed without a length, and that is R27's second case. -/
theorem raInv_of_placeWork_none {buf b work : Bytes} {len : Option Nat}
    (hp : placeWork buf len work = (b, none)) : raInv b none = true := by
  rcases placeWork_cases buf len work with
    ⟨hh, hn, e⟩ | ⟨-, -, e⟩ | ⟨-, -, e⟩ | ⟨-, l, -, e⟩ <;> rw [e] at hp <;> cases hp
  have h2 : 2 ≤ b.length := two_le_length_of_isHeader hh
  exact (raInv_none_iff b).mpr (.inr ⟨hh, by omega⟩)

/-- A placed sequence below its length is R27's third case: a new header declares the length itself, and
a continuation keeps the first four bytes of the pending header. An inferred length is always reached. -/
theorem raInv_of_placeWork_lt {buf b work : Bytes} {len : Option Nat} {l : Nat}
    (hinv : raInv buf len = true) (hp : placeWork buf len work = (b, some l)) (hl : b.length < l) :
    raInv b (some l) = true := by
  rcases placeWork_cases buf len work with
    ⟨-, -, e⟩ | ⟨hh, hn, e⟩ | ⟨-, -, e⟩ | ⟨-, k, rfl, e⟩ <;> rw [e] at hp <;> cases hp
  case inr.inl => exact raInv_of_header_lt hh rfl hn hl
  case inr.inr.inl => exact absurd hl (Nat.lt_irrefl _)
  case inr.inr.inr =>
    obtain ⟨-, -, hh, hb, hn, -⟩ := (raInv_some_iff buf l).mp hinv
    refine raInv_of_header_lt (isHeader_append hh work) ?_ (by simp; omega) hl
    rw [byteAt_append_left work (by omega), hb]

/-- Placing a delivery keeps R27's invariant; after a cut the rest is placed into an IDLE Reassembler,
and it is shorter than what was there (R104, R108). -/
theorem raInv_feedChunk (judge : Bytes → Event) (buf : Bytes) (len : Option Nat) (chunk : Bytes)
    (hinv : raInv buf len = true) :
    raInv (feedChunk judge buf len chunk).buf (feedChunk judge buf len chunk).len = true := by
  rcases feedChunk_cases judge buf len chunk with
    ⟨-, e⟩ | ⟨-, b, hp, e⟩ | ⟨-, b, -, e⟩ | ⟨-, b, l, hp, hl, e⟩ | ⟨-, b, l, hp, h1, hl, e⟩ <;> rw [e]
  · exact hinv
  · exact raInv_of_placeWork_none hp
  · exact raInv_idle
  · exact raInv_of_placeWork_lt hinv hp hl
  · exact raInv_feedChunk judge [] none (b.drop l) raInv_idle
termination_by buf.length + chunk.length
decreasing_by
  have hle := placeWork_length_le buf len chunk
  simp only [hp] at hle
  simp only [List.length_nil, List.length_drop]
  omega

/-! ### What an operation can do -/

/-- The meaning writes its response and nothing else, and takes the response from the configuration
alone (R30). -/
def AnswersFromConfig (m : State → Result) : Prop :=
  ∃ answer : Config → Response, ∀ s, m s = .next (s.respond (answer s.cfg))

theorem answersFromConfig_value (v : Value) : AnswersFromConfig (answerValue v) :=
  ⟨fun _ => okValue v, answerValue_eq v⟩

theorem answersFromConfig_reject (c : RejectCode) : AnswersFromConfig (rejectRequest c) :=
  ⟨fun _ => rejected c, rejectRequest_eq c⟩

/-- The shape of every command-code row: one event, decoded from the frame by the kind (R150). -/
theorem answersFromConfig_kind (kind : Kind) (ph : Phases) (f : Bytes) :
    AnswersFromConfig fun s =>
      answerEvent (frameEvent kind f (kindDecode s.cfg kind (payloadOf f) ph)) s :=
  ⟨fun c => okEvents [frameEvent kind f (kindDecode c kind (payloadOf f) ph)], fun _ => rfl⟩

theorem answersFromConfig_decode (ph : Byte) (f : Bytes) : AnswersFromConfig (execDecode ph f) := by
  cases hph : phasesOf ph with
  | none => exact ⟨fun _ => rejected .badOperand, fun s => by simp [execDecode, hph, rejectRequest_eq]⟩
  | some p =>
    exact ⟨fun c => okEvents [process c p f], fun s => by simp [execDecode, hph, answerEvent_eq]⟩

theorem answersFromConfig_encode (serial : BitVec 64) (password : Bytes) (cmd : BitVec 16)
    (payload : Bytes) : AnswersFromConfig (execEncode serial password cmd payload) := by
  refine ⟨fun c => if c.encMaxPayload < payload.length then rejected .encTooLong
    else okValue (.frame (buildFrame serial.toNat password cmd.toNat payload)), fun s => ?_⟩
  by_cases hlong : s.cfg.encMaxPayload < payload.length
  · simp [execEncode, hlong, rejectRequest_eq]
  · simp [execEncode, hlong, answerValue_eq]

/-- Every operation but FEED and RESET answers from the configuration alone (R23, R30). -/
theorem exec_answersFromConfig {i : Instr} (h : stateless i = true) : AnswersFromConfig (exec i) := by
  cases i with
  | reset => cases h
  | feed ph chunk => cases h
  | encode serial password cmd payload => exact answersFromConfig_encode serial password cmd payload
  | validate data => exact answersFromConfig_value _
  | decode ph f => exact answersFromConfig_decode ph f
  | csumDec data => exact answersFromConfig_value _
  | csumEnc data => exact answersFromConfig_value _
  | reservedOp op operands => exact answersFromConfig_reject .badOp
  | loginBeacon ph f => exact answersFromConfig_kind .loginBeacon ph f
  | loginResponse ph f => exact answersFromConfig_kind .loginResponse ph f
  | acStatus4 ph f => exact answersFromConfig_kind .acStatus ph f
  | chargeStatus5 ph f => exact answersFromConfig_kind .chargeStatus ph f
  | chargeStatus6 ph f => exact answersFromConfig_kind .chargeStatus ph f
  | chargeStartAck ph f => exact answersFromConfig_kind .chargeStartAck ph f
  | chargeStopAck ph f => exact answersFromConfig_kind .chargeStopAck ph f
  | acStatus13 ph f => exact answersFromConfig_kind .acStatus ph f
  | systemTime ph f => exact answersFromConfig_kind .systemTime ph f
  | version ph f => exact answersFromConfig_kind .version ph f
  | outputAmps ph f => exact answersFromConfig_kind .outputAmps ph f
  | deviceName ph f => exact answersFromConfig_kind .deviceName ph f
  | language ph f => exact answersFromConfig_kind .language ph f
  | temperatureUnit ph f => exact answersFromConfig_kind .temperatureUnit ph f
  | unknown ph f => exact answersFromConfig_kind .unknown ph f

/-- From `s` the answer `r` is a next state that differs in `RA_BUF`, `RA_LEN` and one appended response
at most, and the Reassembler's state meets R27 if it did before. -/
def WritesOnlyRa (s : State) (r : Result) : Prop :=
  ∃ buf len response, r = .next ((s.setRa buf len).respond response) ∧
    (raInv s.raBuf s.raLen = true → raInv buf len = true)

/-- An answer that only returns a response leaves the Reassembler as it was. -/
theorem writesOnlyRa_respond (s : State) (response : Response) :
    WritesOnlyRa s (.next (s.respond response)) :=
  ⟨s.raBuf, s.raLen, response, rfl, id⟩

theorem writesOnlyRa_feed (ph : Byte) (chunk : Bytes) (s : State) :
    WritesOnlyRa s (execFeed ph chunk s) := by
  cases hph : phasesOf ph with
  | none =>
    rw [show execFeed ph chunk s = rejectRequest .badOperand s by simp [execFeed, hph]]
    exact writesOnlyRa_respond s _
  | some p =>
    rcases Nat.lt_or_ge s.cfg.chunkMax chunk.length with hlong | hfits
    · rw [show execFeed ph chunk s = rejectRequest .chunkTooLong s by simp [execFeed, hph, hlong]]
      exact writesOnlyRa_respond s _
    · rw [(phasesOf_eq_some_iff ph p).mp hph, execFeed_eq s p chunk hfits]
      exact ⟨_, _, _, rfl, raInv_feedChunk _ _ _ _⟩

/-- What any instruction does (R23, R28). -/
theorem writesOnlyRa_exec (i : Instr) (s : State) : WritesOnlyRa s (exec i s) := by
  cases hi : stateless i with
  | true =>
    obtain ⟨answer, hexec⟩ := exec_answersFromConfig hi
    rw [hexec s]
    exact writesOnlyRa_respond s _
  | false =>
    cases i with
    | reset => exact ⟨[], none, okEvents [], rfl, fun _ => raInv_idle⟩
    | feed ph chunk => exact writesOnlyRa_feed ph chunk s
    | _ => cases hi

/-! ### What a step can do -/

/-- With no request waiting a step changes nothing (log 3). -/
theorem step_of_inbox_nil {s : State} (h : s.inbox = []) : step s = .next s := by
  simp [step, (State.fetch_eq_none_iff s).mpr h]

/-- A step that serves a request takes it from the host port and does no more than an operation can. -/
theorem step_of_inbox_cons {s : State} {q : Bytes} {rest : List Bytes} (h : s.inbox = q :: rest) :
    WritesOnlyRa { s with inbox := rest } (step s) := by
  simp only [step, State.fetch_of_inbox s q h]
  cases decode q with
  | ok i => exact writesOnlyRa_exec i _
  | error c => exact writesOnlyRa_respond _ (rejected c)

/-- What every step keeps: the configuration (R28) and R27's invariant of the Reassembler. -/
theorem step_keeps {s t : State} (h : step s = .next t) :
    t.cfg = s.cfg ∧ (raInv s.raBuf s.raLen = true → raInv t.raBuf t.raLen = true) := by
  cases hq : s.inbox with
  | nil =>
    rw [step_of_inbox_nil hq] at h
    cases h
    exact ⟨rfl, id⟩
  | cons q rest =>
    obtain ⟨buf, len, response, hstep, hinv⟩ := step_of_inbox_cons hq
    rw [hstep] at h
    cases h
    exact ⟨rfl, hinv⟩

end Sys2Proof.Machine

/-! ### The build-time configuration -/

namespace Sys2Proof

theorem Config.excfg_wf : Config.excfg.wf = true := by decide

/-- Whatever the builder chose, the configuration the engine is built with meets R8 and R10 (log 4). -/
theorem Config.build_wf : Config.build.wf = true := by
  unfold Config.build
  split
  · assumption
  · exact Config.excfg_wf

end Sys2Proof

/-! ### The statements -/

namespace Sys2Proof.Proofs

open Sys2Proof.Machine

/-- Settles O13: the step keeps R27's invariant and does not touch the configuration. -/
theorem stepKeepsTheInvariant : Obligations.StepKeepsTheInvariant := by
  intro s t hinv hstep
  obtain ⟨hra, hwf⟩ := s.inv_iff.mp hinv
  obtain ⟨hcfg, hkeeps⟩ := step_keeps hstep
  exact t.inv_iff.mpr ⟨hkeeps hra, hcfg ▸ hwf⟩

/-- Settles O10. -/
theorem noStepWritesTheConfiguration : Obligations.NoStepWritesTheConfiguration :=
  fun _ _ hstep => (step_keeps hstep).1

/-- Settles O14, by R27's three cases. -/
theorem invariantGivesPhaseAndBound : Obligations.InvariantGivesPhaseAndBound := by
  intro s hinv
  cases hlen : s.raLen with
  | none =>
    rw [hlen] at hinv
    rcases (raInv_none_iff _).mp hinv with hbuf | ⟨hh, hn⟩
    · exact ⟨by simp [hbuf], .inl ⟨State.phase_idle hlen hbuf, hbuf, rfl⟩⟩
    · exact ⟨by omega, .inr (.inl ⟨State.phase_hdrNoLen hlen hh (by omega), rfl, hn⟩)⟩
  | some l =>
    rw [hlen] at hinv
    obtain ⟨h5, h255, hh, hb, h4, hl⟩ := (raInv_some_iff _ l).mp hinv
    have hbyte : s.raBuf[3]?.map BitVec.toNat = some l := by
      simp [← hb, byteAt, List.getElem?_eq_getElem (show 3 < s.raBuf.length by omega)]
    exact ⟨by omega, .inr (.inr ⟨l, State.phase_collecting hlen hl, rfl, h5, h255,
      (isHeader_iff _).mp hh, hbyte, h4, hl⟩)⟩

/-- Settles O17: the response is the same function of the configuration from both states. -/
theorem statelessOperationsWriteOnlyTheirResponse :
    Obligations.StatelessOperationsWriteOnlyTheirResponse := by
  intro i s t hi hcfg
  obtain ⟨answer, hexec⟩ := exec_answersFromConfig hi
  refine ⟨answer s.cfg, hexec s, ?_⟩
  rw [hcfg]
  exact hexec t

/-- Settles O12. -/
theorem powerOnMeetsTheInvariant : Obligations.PowerOnMeetsTheInvariant :=
  State.reset.inv_iff.mpr ⟨raInv_idle, Config.build_wf⟩

end Sys2Proof.Proofs

/-!
PROOFS. The memory family (20_memory.md): an operation sees the Reassembler and the configuration alone,
what a field read and a trim give, the decoder undoing the encoder, and the statements O5, O18, O25 and
O26.
-/

/-! ### What the second of two operations sees -/

namespace Sys2Proof.Machine

/-- FEED reads only `RA_BUF`, `RA_LEN` and the configuration, so it does the same from two states that
agree on them. -/
theorem execFeed_congr (ph : Byte) (chunk : Bytes) {s t : State} (hbuf : s.raBuf = t.raBuf)
    (hlen : s.raLen = t.raLen) (hcfg : s.cfg = t.cfg) :
    ∃ buf len r, execFeed ph chunk s = .next ((s.setRa buf len).respond r) ∧
      execFeed ph chunk t = .next ((t.setRa buf len).respond r) := by
  cases hph : phasesOf ph with
  | none =>
    refine ⟨s.raBuf, s.raLen, rejected .badOperand, ?_, ?_⟩
    · simp [execFeed, hph, rejectRequest_eq]
    · simp [execFeed, hph, rejectRequest_eq, hbuf, hlen]
  | some p =>
    obtain rfl := (phasesOf_eq_some_iff ph p).mp hph
    rcases Nat.lt_or_ge s.cfg.chunkMax chunk.length with hlong | hfits
    · refine ⟨s.raBuf, s.raLen, rejected .chunkTooLong, ?_, ?_⟩
      · simp [execFeed, hlong, rejectRequest_eq]
      · simp [execFeed, ← hcfg, hlong, rejectRequest_eq, hbuf, hlen]
    · refine ⟨_, _, _, execFeed_eq s p chunk hfits, ?_⟩
      rw [execFeed_eq t p chunk (hcfg ▸ hfits), hbuf, hlen, hcfg]

/-- From two states that agree on the Reassembler and the configuration, an operation leaves the same
Reassembler and answers the same (R23). -/
theorem exec_congr (i : Instr) {s t : State} (hbuf : s.raBuf = t.raBuf) (hlen : s.raLen = t.raLen)
    (hcfg : s.cfg = t.cfg) :
    ∃ buf len r, exec i s = .next ((s.setRa buf len).respond r) ∧
      exec i t = .next ((t.setRa buf len).respond r) := by
  cases hi : stateless i with
  | true =>
    obtain ⟨answer, hexec⟩ := exec_answersFromConfig hi
    refine ⟨s.raBuf, s.raLen, answer s.cfg, hexec s, ?_⟩
    rw [hexec t, hbuf, hlen, hcfg, State.setRa_self]
  | false =>
    cases i with
    | reset => exact ⟨[], none, okEvents [], rfl, rfl⟩
    | feed ph chunk => exact execFeed_congr ph chunk hbuf hlen hcfg
    | _ => cases hi

end Sys2Proof.Machine

/-! ### FieldRead's sums -/

namespace Sys2Proof.Machine

/-- R48's little-endian sum: byte `k` has weight `256^k`. -/
theorem leValue_eq_sum (b : Bytes) :
    leValue b = ∑ k ∈ Finset.range b.length, (b.getD k 0).toNat * 256 ^ k := by
  induction b with
  | nil => rfl
  | cons a b ih =>
    rw [leValue_cons, ih, List.length_cons, Finset.sum_range_succ', Finset.mul_sum, add_comm]
    congr 1
    · refine Finset.sum_congr rfl fun k _ => ?_
      rw [List.getD_cons_succ, Nat.pow_succ]
      ring
    · simp

/-- R48's big-endian sum: the last byte has weight 1. -/
theorem beValue_eq_sum (b : Bytes) :
    beValue b = ∑ k ∈ Finset.range b.length, (b.getD k 0).toNat * 256 ^ (b.length - 1 - k) := by
  induction b with
  | nil => rfl
  | cons a b ih =>
    rw [beValue_cons, ih, List.length_cons, Finset.sum_range_succ', add_comm]
    congr 1
    refine Finset.sum_congr rfl fun k _ => ?_
    rw [List.getD_cons_succ, show b.length + 1 - 1 - (k + 1) = b.length - 1 - k by omega]

/-- A byte of a field is the payload's byte at the field's offset and beyond. -/
theorem getD_drop_take {p : Bytes} {off w k : Nat} (hk : k < w) :
    ((p.drop off).take w).getD k 0 = p.getD (off + k) 0 := by
  simp [List.getElem?_take_of_lt hk]

/-- The place of byte `k` of a field of `w` bytes, as R48's two sums give it: a power of 256. -/
def bytePlace (ord : ByteOrder) (w k : Nat) : Nat :=
  match ord with
  | .be => w - 1 - k
  | .le => k

theorem uintValue_eq_sum (ord : ByteOrder) (b : Bytes) :
    uintValue ord b =
      ∑ k ∈ Finset.range b.length, (b.getD k 0).toNat * 256 ^ bytePlace ord b.length k := by
  cases ord with
  | be => exact beValue_eq_sum b
  | le => exact leValue_eq_sum b

/-- A `U` field that fits is R48's sum over the payload's own bytes. -/
theorem readUInt_eq_sum {p : Bytes} {off w : Nat} (ord : ByteOrder) (h : off + w ≤ p.length) :
    readUInt p off w ord =
      .ok (∑ k ∈ Finset.range w, (p.getD (off + k) 0).toNat * 256 ^ bytePlace ord w k) := by
  have hw : ((p.drop off).take w).length = w := by simp; omega
  rw [readUInt_of_fits h, uintValue_eq_sum, hw]
  refine congrArg Except.ok (Finset.sum_congr rfl fun k hk => ?_)
  rw [getD_drop_take (Finset.mem_range.mp hk)]

/-- A `U` field beyond the payload. -/
theorem readUInt_of_short {p : Bytes} {off w : Nat} (ord : ByteOrder) (h : p.length < off + w) :
    readUInt p off w ord = .error .payloadShort := if_pos h

/-- A `STR` or `RAW` field beyond the payload. -/
theorem readSpan_of_short {p : Bytes} {off : Nat} {e : Extent} (h : p.length < extentEnd off e) :
    readSpan p off e = .error .payloadShort := by
  rcases readSpan_cases p off e with ⟨hn, -⟩ | ⟨-, e⟩
  · omega
  · exact e

end Sys2Proof.Machine

/-! ### Trim's zeros -/

namespace Sys2Proof.Machine

/-- What is dropped from the front is zeros. -/
theorem exists_replicate_append_dropWhile (s : Bytes) :
    ∃ j, s = List.replicate j 0 ++ s.dropWhile (· == 0) := by
  have hzeros : ∀ x ∈ s.takeWhile (· == 0), x = 0 := fun x hx => by
    simpa using List.mem_takeWhile_imp hx
  refine ⟨(s.takeWhile (· == 0)).length, ?_⟩
  rw [← List.eq_replicate_of_mem hzeros, List.takeWhile_append_dropWhile]

/-- The byte after the dropped zeros is none of them. -/
theorem head?_dropWhile_ne_zero (s : Bytes) : (s.dropWhile (· == 0)).head? ≠ some 0 := by
  intro h0
  have h := List.head?_dropWhile_not (· == 0) s
  rw [h0] at h
  simp at h

/-- What `trimTrailing` removes is zeros at the end. -/
theorem exists_trimTrailing_append_replicate (s : Bytes) :
    ∃ k, s = trimTrailing s ++ List.replicate k 0 := by
  obtain ⟨k, hk⟩ := exists_replicate_append_dropWhile s.reverse
  refine ⟨k, List.reverse_injective ?_⟩
  rw [trimTrailing, List.reverse_append, List.reverse_reverse, List.reverse_replicate]
  exact hk

/-- No zero is left at the end. -/
theorem getLast?_trimTrailing_ne_zero (s : Bytes) : (trimTrailing s).getLast? ≠ some 0 := by
  rw [trimTrailing, List.getLast?_reverse]
  exact head?_dropWhile_ne_zero s.reverse

/-- Trimming the end brings no zero to the front. -/
theorem head?_trimTrailing_ne_zero {s : Bytes} (h : s.head? ≠ some 0) :
    (trimTrailing s).head? ≠ some 0 := by
  obtain ⟨k, hk⟩ := exists_trimTrailing_append_replicate s
  intro h0
  rw [hk, List.head?_append, h0] at h
  exact h rfl

end Sys2Proof.Machine

/-! ### Decoding an encoded request -/

namespace Sys2Proof.Machine

/-- A field is read back from between what stands before and after it. -/
theorem slice_of_eq_append {q a b : Bytes} (c : Bytes) {i j : Nat} (hq : q = a ++ b ++ c)
    (hi : a.length = i) (hj : i + b.length = j) : slice q i j = b := by
  subst hq hi hj
  exact slice_append a b c

/-- A big-endian count is read back from between what stands before and after it. -/
theorem u16be_of_eq_append {q a : Bytes} (c : Bytes) {i v : Nat} (hq : q = a ++ be16 v ++ c)
    (hi : a.length = i) (hv : v < 65536) : u16be q i = v := by
  subst hq hi
  rw [List.append_assoc, u16be_append, u16be_be16 hv]

end Sys2Proof.Machine

namespace Sys2Proof

open Machine
open Laws.RequestFormat (requestPhData_length requestData_length)

/-- FEED's and DECODE's operands come back from their request (R61). -/
theorem decodePhData_requestPhData {d : Bytes} (op ph : Byte) (mk : Byte → Bytes → Instr)
    (h : countFits d = true) : decodePhData (requestPhData op ph d) mk = .ok (mk ph d) := by
  have hlen := requestPhData_length op ph h
  exact if_neg (by omega)

/-- The operand of VALIDATE and of the checksums comes back from its request (R61). -/
theorem decodeData_requestData {d : Bytes} (op : Byte) (mk : Bytes → Instr)
    (h : countFits d = true) : decodeData (requestData op d) mk = .ok (mk d) := by
  have hlen := requestData_length op h
  exact if_neg (by omega)

/-- R61's ENCODE format, read back: each operand stands where its fixed offset says. -/
theorem encodeRequest_operands (serial : BitVec 64) {password : Bytes} (cmd : BitVec 16)
    {payload q : Bytes} (hq : q = encode (.encode serial password cmd payload))
    (hpw : password.length = 6) (hfits : payload.length < 65536) :
    q.length = 19 + payload.length ∧ u64le q 1 = serial.toNat ∧ slice q 9 15 = password ∧
      u16be q 15 = cmd.toNat ∧ u16be q 17 = payload.length ∧ q.drop 19 = payload := by
  have hserial : slice q 1 9 = le64 serial.toNat :=
    slice_of_eq_append (a := [0x03]) (password ++ be16 cmd.toNat ++ be16 payload.length ++ payload)
      (by simp [hq, encode]) rfl rfl
  refine ⟨?_, ?_, ?_, ?_, ?_, ?_⟩
  · simp [hq, encode, hpw]
    omega
  · rw [u64le, hserial, leValue_le64 serial.isLt]
  · exact slice_of_eq_append (a := [0x03] ++ le64 serial.toNat)
      (be16 cmd.toNat ++ be16 payload.length ++ payload) (by simp [hq, encode]) rfl (by rw [hpw])
  · exact u16be_of_eq_append (a := [0x03] ++ le64 serial.toNat ++ password)
      (be16 payload.length ++ payload) (by simp [hq, encode]) (by simp [hpw]) cmd.isLt
  · exact u16be_of_eq_append (a := [0x03] ++ le64 serial.toNat ++ password ++ be16 cmd.toNat)
      payload hq (by simp [hpw]) hfits
  · rw [hq]
    exact List.drop_left' (by simp [hpw])

theorem decodeEncodeOperands_encode {serial : BitVec 64} {password : Bytes} {cmd : BitVec 16}
    {payload : Bytes} (hpw : password.length = 6) (hfits : payload.length < 65536) :
    decodeEncodeOperands (encode (.encode serial password cmd payload)) =
      .ok (.encode serial password cmd payload) := by
  obtain ⟨hlen, hserial, hpassword, hcmd, hcount, hpayload⟩ :=
    encodeRequest_operands serial cmd rfl hpw hfits
  rw [decodeEncodeOperands, if_neg (by omega), hserial, hpassword, hcmd, hpayload,
    BitVec.ofNat_toNat, BitVec.ofNat_toNat, BitVec.setWidth_eq, BitVec.setWidth_eq]

/-- A DECODE whose operands go no further stays DECODE (log 5). -/
theorem decodeOperation_of_stops {ph : Byte} {f : Bytes} (h : decodeStops ph f = true) :
    decodeOperation ph f = .decode ph f := by
  cases hph : phasesOf ph with
  | none => simp [decodeOperation, hph]
  | some p =>
    have hv : validate f ≠ .valid := by simpa [decodeStops, hph] using h
    simp [decodeOperation, hph, hv]

/-- A DECODE of a valid frame is its command code's instruction (log 5). -/
theorem decode_requestFrame {f : Bytes} (ph : Phases) (hfits : countFits f = true)
    (hvalid : validate f = .valid) : decode (requestFrame ph f) = .ok (frameInstr ph f) := by
  have hop : decodeOperation (phasesByte ph) f = frameInstr ph f := by
    simp [decodeOperation, hvalid]
  rw [← hop]
  exact decodePhData_requestPhData 0x05 (phasesByte ph) decodeOperation hfits

/-- The request of a row with an assigned command code. -/
theorem decode_requestFrame_of_code {n : Nat} {f : Bytes} {i : Instr} (ph : Phases)
    (h : frameHasCode n f = true) (hi : frameCode f = n → frameInstr ph f = i) :
    decode (requestFrame ph f) = .ok i := by
  simp only [frameHasCode, Bool.and_eq_true, beq_iff_eq] at h
  obtain ⟨⟨hfits, hvalid⟩, hcode⟩ := h
  rw [decode_requestFrame ph hfits hvalid, hi hcode]

/-- A code that no kind claims is UNKNOWN's row (R73). -/
theorem frameInstr_of_unassigned {f : Bytes} (ph : Phases)
    (h : dispatchKind (frameCode f) = .unknown) : frameInstr ph f = .unknown ph f := by
  unfold frameInstr
  split
  case h_15 => rfl
  all_goals rename_i hcode; rw [hcode] at h; cases h

theorem decode_requestFrame_of_unassigned {f : Bytes} (ph : Phases)
    (h : frameUnassigned f = true) : decode (requestFrame ph f) = .ok (.unknown ph f) := by
  simp only [frameUnassigned, Bool.and_eq_true, beq_iff_eq] at h
  obtain ⟨⟨hfits, hvalid⟩, hkind⟩ := h
  rw [decode_requestFrame ph hfits hvalid, frameInstr_of_unassigned ph hkind]

/-- A reserved OP is an instruction of its own, whatever follows (R63). -/
theorem decode_reservedOp {op : Byte} (operands : Bytes) (h : opReserved op = true) :
    decode (op :: operands) = .ok (.reservedOp op operands) := by
  have hop : op.toNat = 0 ∨ 8 ≤ op.toNat := by simpa [opReserved] using h
  simp only [decode]
  split
  case h_8 => rfl
  all_goals omega

/-- The decoder undoes the encoder on every well-formed instruction (R61). -/
theorem decode_encode {i : Instr} (h : i.wellFormed = true) : decode (encode i) = .ok i := by
  cases i with
  | reset => rfl
  | feed ph chunk => exact decodePhData_requestPhData 0x02 ph .feed h
  | encode serial password cmd payload =>
    obtain ⟨hpw, hfits⟩ := (Bool.and_eq_true _ _).mp h
    exact decodeEncodeOperands_encode (beq_iff_eq.mp hpw) (of_decide_eq_true hfits)
  | validate data => exact decodeData_requestData 0x04 .validate h
  | decode ph f =>
    obtain ⟨hfits, hstops⟩ := (Bool.and_eq_true _ _).mp h
    calc decode (encode (.decode ph f))
      _ = .ok (decodeOperation ph f) := decodePhData_requestPhData 0x05 ph decodeOperation hfits
      _ = .ok (.decode ph f) := by rw [decodeOperation_of_stops hstops]
  | csumDec data => exact decodeData_requestData 0x06 .csumDec h
  | csumEnc data => exact decodeData_requestData 0x07 .csumEnc h
  | reservedOp op operands => exact decode_reservedOp operands h
  | unknown ph f => exact decode_requestFrame_of_unassigned ph h
  | loginBeacon ph f | loginResponse ph f | acStatus4 ph f | chargeStatus5 ph f
  | chargeStatus6 ph f | chargeStartAck ph f | chargeStopAck ph f | acStatus13 ph f
  | systemTime ph f | version ph f | outputAmps ph f | deviceName ph f | language ph f
  | temperatureUnit ph f =>
    exact decode_requestFrame_of_code ph h fun hcode => by simp [frameInstr, hcode]

end Sys2Proof

/-! ### The statements of the memory family -/

namespace Sys2Proof.Proofs

open Sys2Proof.Machine

/-- Settles O18: the other operation sees the same Reassembler and configuration before and after the
stateless one, whose response in turn does not depend on what the other did. -/
theorem statelessOperationsCommute : Obligations.StatelessOperationsCommute := by
  intro i j s hi
  obtain ⟨answer, hexec⟩ := exec_answersFromConfig hi
  obtain ⟨buf, len, b, hfirst, hafter⟩ :=
    exec_congr j (s := s) (t := s.respond (answer s.cfg)) rfl rfl rfl
  refine ⟨answer s.cfg, b, buf, len, ⟨_, hexec s, ?_⟩, _, hfirst, ?_⟩
  · rw [hafter]
    simp [State.respond, State.setRa]
  · rw [hexec]
    simp [State.respond, State.setRa]

/-- Settles O25: in either byte order the value read is the sum of its bytes at their places. -/
theorem fieldReadFollowsItsRule : Obligations.FieldReadFollowsItsRule := by
  refine ⟨fun p off w ord => ⟨readUInt_of_short ord, fun h => ?_⟩, fun p off len => ?_⟩
  · cases ord with
    | be => exact readUInt_eq_sum .be h
    | le => exact readUInt_eq_sum .le h
  · exact ⟨readSpan_of_short (e := .rest), readSpan_of_fits (e := .rest),
      readSpan_of_short (e := .fixed len), readSpan_of_fits (e := .fixed len)⟩

/-- Settles O26: what each setting removes is zeros, and no zero is left where it trims. -/
theorem trimFollowsItsSetting : Obligations.TrimFollowsItsSetting := by
  intro s
  obtain ⟨k, hk⟩ := exists_trimTrailing_append_replicate s
  obtain ⟨j, hj⟩ := exists_replicate_append_dropWhile s
  obtain ⟨m, hm⟩ := exists_trimTrailing_append_replicate (s.dropWhile (· == 0))
  refine ⟨⟨k, hk, getLast?_trimTrailing_ne_zero s⟩, ⟨j, m, ?_, ?_, ?_⟩, ?_⟩
  · rw [List.append_assoc]
    exact hj.trans (congrArg _ hm)
  · exact head?_trimTrailing_ne_zero (head?_dropWhile_ne_zero s)
  · exact getLast?_trimTrailing_ne_zero _
  · rw [trim, List.takeWhile_eq_take_findIdx_not]
    simp [bne]

/-- Settles O5: the step decodes the oldest request, and decoding undoes encoding. -/
theorem stepRunsTheDecodedInstruction : Obligations.StepRunsTheDecodedInstruction := by
  intro s i rest hi hq
  simp only [step, State.fetch_of_inbox s (encode i) hq, decode_encode hi]

end Sys2Proof.Proofs

/-!
PROOFS. The encoding family (30_encoding.md): an accepted request is written again from the operands read,
R62's checks on the request against what the meaning answers, the pieces of a split, and the statements
O1, O2, O3, O7, O9, O31 and O57.
-/

/-! ### Bytes written again from what was read -/

namespace Sys2Proof.Machine

/-- A slice and what follows its end. -/
theorem slice_append_drop (b : Bytes) {i j : Nat} (h : i ≤ j) :
    slice b i j ++ b.drop j = b.drop i := by
  have hd : b.drop j = (b.drop i).drop (j - i) := by rw [List.drop_drop, Nat.add_sub_cancel' h]
  rw [slice, hd, List.take_append_drop]

/-- The two bytes of a big-endian count are the slice it was read from. -/
theorem be16_u16be_eq_slice {b : Bytes} {o : Nat} (h : o + 2 ≤ b.length) :
    be16 (u16be b o) = slice b o (o + 2) := by
  have h0 : o < b.length := by omega
  have h1 : o + 1 < b.length := by omega
  have hdrop : b.drop o = byteAt b o :: byteAt b (o + 1) :: b.drop (o + 2) := by
    rw [byteAt, byteAt, List.getD_eq_getElem _ _ h0, List.getD_eq_getElem _ _ h1,
      List.drop_eq_getElem_cons h0, List.drop_eq_getElem_cons h1]
  rw [be16_u16be, slice, hdrop, Nat.add_sub_cancel_left]
  rfl

/-- Byte `k` of a little-endian number. -/
theorem byteOf_leValue_div (b : Bytes) (k : Nat) : byteOf (leValue b / 256 ^ k) = byteAt b k := by
  induction b generalizing k with
  | nil => simp [byteAt]
  | cons a b ih =>
    have ha := a.isLt
    cases k with
    | zero =>
      apply BitVec.eq_of_toNat_eq
      simp only [leValue_cons, byteAt_cons_zero, BitVec.toNat_ofNat]
      omega
    | succ k =>
      have hdiv : (a.toNat + 256 * leValue b) / 256 = leValue b := by omega
      rw [leValue_cons, byteAt_cons_succ, Nat.pow_succ', ← Nat.div_div_eq_div_mul, hdiv, ih]

/-- The eight bytes of a little-endian number are the bytes it was read from. -/
theorem le64_leValue {b : Bytes} (h : b.length = 8) : le64 (leValue b) = b := by
  simp only [le64, byteOf_leValue_div]
  refine List.ext_getElem (by simp [h]) fun k _ hk => ?_
  simp [byteAt, hk]

theorem u64le_lt (b : Bytes) (o : Nat) : u64le b o < 2 ^ 64 :=
  calc leValue (slice b o (o + 8))
    _ < 256 ^ (slice b o (o + 8)).length := leValue_lt _
    _ ≤ 256 ^ 8 := Nat.pow_le_pow_right (by decide) (by simp)

/-- The pieces from `start` on join to what stands from `start` on. -/
theorem flatten_cuts (b : Bytes) {start : Nat} {cuts : List Nat}
    (h : List.Pairwise (· ≤ ·) (start :: cuts)) :
    (List.zipWith (slice b) (start :: cuts) (cuts ++ [b.length])).flatten = b.drop start := by
  induction cuts generalizing start with
  | nil => simp [slice]
  | cons cut cuts ih =>
    obtain ⟨hstart, hcuts⟩ := List.pairwise_cons.mp h
    rw [List.cons_append, List.zipWith_cons_cons, List.flatten_cons, ih hcuts,
      slice_append_drop b (hstart cut List.mem_cons_self)]

end Sys2Proof.Machine

/-! ### Encoding a decoded request -/

namespace Sys2Proof

open Machine

/-- The operands of an accepted FEED or DECODE request fit the format and give the request again. -/
theorem requestPhData_of_decodePhData {op : Byte} {operands : Bytes} {mk : Byte → Bytes → Instr}
    {i : Instr} (h : decodePhData (op :: operands) mk = .ok i) :
    ∃ ph d, i = mk ph d ∧ countFits d = true ∧ requestPhData op ph d = op :: operands := by
  rw [decodePhData] at h
  split at h <;> cases h
  rename_i hlen
  push Not at hlen
  obtain ⟨h4, hlen⟩ := hlen
  have hcount := u16be_lt (op :: operands) 2
  have hd : ((op :: operands).drop 4).length = u16be (op :: operands) 2 := by
    rw [List.length_drop]; omega
  refine ⟨_, _, rfl, decide_eq_true (hd ▸ hcount), ?_⟩
  have htail := slice_append_drop (op :: operands) (i := 2) (j := 4) (by decide)
  rw [requestPhData, hd, be16_u16be_eq_slice h4, List.append_assoc, htail]
  cases operands with
  | nil => simp at h4
  | cons ph rest => rfl

/-- The operand of an accepted VALIDATE or checksum request fits the format and gives the request again. -/
theorem requestData_of_decodeData {op : Byte} {operands : Bytes} {mk : Bytes → Instr} {i : Instr}
    (h : decodeData (op :: operands) mk = .ok i) :
    ∃ d, i = mk d ∧ countFits d = true ∧ requestData op d = op :: operands := by
  rw [decodeData] at h
  split at h <;> cases h
  rename_i hlen
  push Not at hlen
  obtain ⟨h3, hlen⟩ := hlen
  have hcount := u16be_lt (op :: operands) 1
  have hd : ((op :: operands).drop 3).length = u16be (op :: operands) 1 := by
    rw [List.length_drop]; omega
  refine ⟨_, rfl, decide_eq_true (hd ▸ hcount), ?_⟩
  have htail := slice_append_drop (op :: operands) (i := 1) (j := 3) (by decide)
  rw [requestData, hd, be16_u16be_eq_slice h3, List.append_assoc, htail]
  rfl

/-- The operands of an accepted ENCODE request are well-formed and give the request again. -/
theorem encode_of_decodeEncodeOperands {operands : Bytes} {i : Instr}
    (h : decodeEncodeOperands (0x03 :: operands) = .ok i) :
    i.wellFormed = true ∧ encode i = 0x03 :: operands := by
  rw [decodeEncodeOperands] at h
  split at h <;> cases h
  rename_i hlen
  push Not at hlen
  obtain ⟨h19, hlen⟩ := hlen
  generalize hq : (0x03 :: operands : Bytes) = q at h19 hlen ⊢
  have hcount := u16be_lt q 17
  have hd : (q.drop 19).length = u16be q 17 := by rw [List.length_drop]; omega
  have hserial : le64 (BitVec.ofNat 64 (u64le q 1)).toNat = slice q 1 9 := by
    rw [BitVec.toNat_ofNat, Nat.mod_eq_of_lt (u64le_lt q 1), u64le, le64_leValue (by simp; omega)]
  have hcmd : be16 (BitVec.ofNat 16 (u16be q 15)).toNat = slice q 15 17 := by
    rw [BitVec.toNat_ofNat, Nat.mod_eq_of_lt (u16be_lt q 15), be16_u16be_eq_slice (by omega)]
  have hsize : be16 (u16be q 17) = slice q 17 19 := be16_u16be_eq_slice h19
  constructor
  · simp only [Instr.wellFormed, countFits, Bool.and_eq_true, beq_iff_eq, decide_eq_true_eq]
    exact ⟨by simp; omega, hd ▸ hcount⟩
  · calc encode _
      _ = [0x03] ++ (slice q 1 9 ++ (slice q 9 15 ++ (slice q 15 17 ++ (slice q 17 19
            ++ q.drop 19)))) := by simp only [encode, hserial, hcmd, hd, hsize, List.append_assoc]
      _ = [0x03] ++ q.drop 1 := by simp only [slice_append_drop, Nat.reduceLeDiff]
      _ = q := by rw [← hq]; rfl

/-- A frame's row is well-formed, and its request is the DECODE of that frame (log 5). -/
theorem encode_frameInstr {f : Bytes} (ph : Phases) (hfits : countFits f = true)
    (hvalid : validate f = .valid) :
    (frameInstr ph f).wellFormed = true ∧ encode (frameInstr ph f) = requestFrame ph f := by
  unfold frameInstr
  split
  case h_15 =>
    have hkind : dispatchKind (frameCode f) = .unknown := by simp_all [dispatchKind]
    exact ⟨by simp [Instr.wellFormed, frameUnassigned, hfits, hvalid, hkind], rfl⟩
  all_goals
    rename_i hcode
    exact ⟨by simp [Instr.wellFormed, frameHasCode, hfits, hvalid, hcode], rfl⟩

/-- Whatever a DECODE request becomes is well-formed and has that request (log 5). -/
theorem encode_decodeOperation {f : Bytes} (ph : Byte) (hfits : countFits f = true) :
    (decodeOperation ph f).wellFormed = true ∧
      encode (decodeOperation ph f) = requestPhData 0x05 ph f := by
  cases hstops : decodeStops ph f with
  | true =>
    rw [decodeOperation_of_stops hstops]
    exact ⟨by simp [Instr.wellFormed, hfits, hstops], rfl⟩
  | false =>
    simp only [decodeStops, Bool.or_eq_false_iff, bne_eq_false_iff_eq] at hstops
    obtain ⟨hph, hvalid⟩ := hstops
    obtain ⟨p, hp⟩ := Option.isSome_iff_exists.mp (Option.isNone_eq_false_iff.mp hph)
    obtain rfl := (phasesOf_eq_some_iff ph p).mp hp
    rw [show decodeOperation (phasesByte p) f = frameInstr p f by simp [decodeOperation, hvalid]]
    exact encode_frameInstr p hfits hvalid

/-- The OP bytes that are not reserved (R60, R63), by format: RESET, then ENCODE, then the two of `HOST_PD`,
then the three of `HOST_D`. -/
theorem op_cases_of_not_reserved {op : Byte} (h : opReserved op = false) :
    op = 0x01 ∨ op = 0x03 ∨ op = 0x02 ∨ op = 0x05 ∨ op = 0x04 ∨ op = 0x06 ∨ op = 0x07 := by
  revert op
  decide

/-- The encoder undoes the decoder on every accepted request (R61). -/
theorem encode_of_decode {q : Bytes} {i : Instr} (h : decode q = .ok i) :
    i.wellFormed = true ∧ encode i = q := by
  cases q with
  | nil => cases h
  | cons op operands =>
    cases hres : opReserved op with
    | true =>
      rw [decode_reservedOp operands hres] at h
      cases h
      exact ⟨hres, rfl⟩
    | false =>
      rcases op_cases_of_not_reserved hres with rfl | rfl | rfl | rfl | rfl | rfl | rfl
      · cases operands with
        | nil => cases h; exact ⟨rfl, rfl⟩
        | cons a rest => cases h
      · exact encode_of_decodeEncodeOperands h
      · obtain ⟨ph, d, rfl, hfits, hq⟩ := requestPhData_of_decodePhData h
        exact ⟨hfits, hq⟩
      · obtain ⟨ph, d, rfl, hfits, hq⟩ := requestPhData_of_decodePhData h
        exact hq ▸ encode_decodeOperation ph hfits
      all_goals
        obtain ⟨d, rfl, hfits, hq⟩ := requestData_of_decodeData h
        exact ⟨hfits, hq⟩

end Sys2Proof

/-! ### The request checks and the meanings -/

namespace Sys2Proof.Machine

/-- No phase count is any operand byte but 1 and 3 (R62 check 3). -/
theorem phasesOf_eq_none_iff (ph : Byte) : phasesOf ph = none ↔ ph.toNat ≠ 1 ∧ ph.toNat ≠ 3 := by
  unfold phasesOf
  split
  · simp_all
  · split <;> simp_all

/-- The answer from `s` is a next state with one response more, whose status is `OK`. -/
def AnswersOk (s : State) (result : Result) : Prop :=
  ∃ t r, result = .next t ∧ t.responses = s.responses ++ [r] ∧ r.status = .ok

theorem answersOk_respond {s t : State} {r : Response} (hresp : t.responses = s.responses)
    (hr : r.status = .ok) : AnswersOk s (.next (t.respond r)) :=
  ⟨_, r, rfl, by rw [State.respond_responses, hresp], hr⟩

end Sys2Proof.Machine

namespace Sys2Proof

open Machine
open Laws.RequestFormat (requestPhData_length lengthAgrees_phData lengthAgrees_data countFits_of_code)

/-- The code with which an instruction's meaning rejects it, none when it runs: R62's checks 3 to 5, and a
reserved OP (R63). -/
def Instr.rejection (c : Config) : Instr → Option RejectCode
  | .reservedOp _ _ => some .badOp
  | .feed ph chunk =>
    if phasesOf ph = none then some .badOperand
    else if c.chunkMax < chunk.length then some .chunkTooLong
    else none
  | .decode ph _ => if phasesOf ph = none then some .badOperand else none
  | .encode _ _ _ payload => if c.encMaxPayload < payload.length then some .encTooLong else none
  | _ => none

/-- A meaning answers with its rejection. -/
theorem exec_of_rejection_eq_some {i : Instr} {s : State} {c : RejectCode}
    (h : i.rejection s.cfg = some c) : exec i s = rejectRequest c s := by
  cases i with
  | feed ph chunk =>
    cases hph : phasesOf ph with
    | none => simp_all [Instr.rejection, exec, execFeed]
    | some p => simp_all [Instr.rejection, exec, execFeed]
  | decode ph f => simp_all [Instr.rejection, exec, execDecode]
  | encode serial password cmd payload => simp_all [Instr.rejection, exec, execEncode]
  | reservedOp op operands => cases h; rfl
  | _ => cases h

/-- A meaning that does not reject answers `OK`. -/
theorem exec_of_rejection_eq_none {i : Instr} {s : State} (h : i.rejection s.cfg = none) :
    AnswersOk s (exec i s) := by
  cases i with
  | feed ph chunk =>
    cases hph : phasesOf ph with
    | none => simp [Instr.rejection, hph] at h
    | some p =>
      obtain rfl := (phasesOf_eq_some_iff ph p).mp hph
      have hfits : chunk.length ≤ s.cfg.chunkMax := by simpa [Instr.rejection] using h
      rw [show exec (.feed (phasesByte p) chunk) s = _ from execFeed_eq s p chunk hfits]
      exact answersOk_respond rfl rfl
  | decode ph f =>
    cases hph : phasesOf ph with
    | none => simp [Instr.rejection, hph] at h
    | some p =>
      obtain rfl := (phasesOf_eq_some_iff ph p).mp hph
      rw [show exec (.decode (phasesByte p) f) s = _ from execDecode_eq s p f]
      exact answersOk_respond rfl rfl
  | encode serial password cmd payload =>
    have hfits : payload.length ≤ s.cfg.encMaxPayload := by simpa [Instr.rejection] using h
    rw [show exec (.encode serial password cmd payload) s = answerValue _ s from
      if_neg (Nat.not_lt.mpr hfits)]
    exact answersOk_respond rfl rfl
  | reservedOp op operands => cases h
  | _ => exact answersOk_respond rfl rfl

/-- The checks after the first two, on a request whose length agrees with its format (R62). -/
theorem requestCheck_of_lengthAgrees {q : Bytes} (c : Config) (op : Byte) (hhead : q.head? = some op)
    (hres : opReserved op = false) (hlen : lengthAgrees op.toNat q = true) :
    requestCheck c q =
      if (op.toNat = 2 ∨ op.toNat = 5) ∧ phasesOf (byteAt q 1) = none then some .badOperand
      else if op.toNat = 2 ∧ c.chunkMax < u16be q 2 then some .chunkTooLong
      else if op.toNat = 3 ∧ c.encMaxPayload < u16be q 17 then some .encTooLong
      else none := by
  cases q with
  | nil => cases hhead
  | cons a operands =>
    obtain rfl : a = op := Option.some.inj hhead
    have hop : ¬ (a.toNat = 0 ∨ 8 ≤ a.toNat) := by simpa [opReserved] using hres
    simp only [requestCheck, if_neg hop, hlen, phasesOf_eq_none_iff, Bool.true_eq_false, if_false]

/-- The count of a `HOST_PD` request is its operand's length. -/
theorem requestPhData_count {d : Bytes} (op ph : Byte) (h : countFits d = true) :
    u16be (requestPhData op ph d) 2 = d.length := by
  have hlen := requestPhData_length op ph h
  have hreq : (requestPhData op ph d).length = 4 + d.length := by simp [requestPhData]; omega
  omega

/-- The checks on a FEED request (R62 checks 2, 3 and 4). -/
theorem requestCheck_feed {chunk : Bytes} (c : Config) (ph : Byte) (h : countFits chunk = true) :
    requestCheck c (requestPhData 0x02 ph chunk) = (Instr.feed ph chunk).rejection c := by
  have hph : byteAt (requestPhData 0x02 ph chunk) 1 = ph := rfl
  rw [requestCheck_of_lengthAgrees c 0x02 rfl rfl (lengthAgrees_phData 0x02 ph h).1, hph,
    requestPhData_count 0x02 ph h]
  simp [Instr.rejection]

/-- The checks on a DECODE request (R62 checks 2 and 3). -/
theorem requestCheck_decode {f : Bytes} (c : Config) (ph : Byte) (h : countFits f = true) :
    requestCheck c (requestPhData 0x05 ph f) = (Instr.decode ph f).rejection c := by
  have hph : byteAt (requestPhData 0x05 ph f) 1 = ph := rfl
  rw [requestCheck_of_lengthAgrees c 0x05 rfl rfl (lengthAgrees_phData 0x05 ph h).2, hph]
  simp [Instr.rejection]

/-- The checks on a request without a phase count or a size bound (R62 check 2). -/
theorem requestCheck_data {op : Byte} {d : Bytes} (c : Config) (h : countFits d = true)
    (hop : op = 0x04 ∨ op = 0x06 ∨ op = 0x07) : requestCheck c (requestData op d) = none := by
  obtain ⟨h4, h6, h7⟩ := lengthAgrees_data op h
  rcases hop with rfl | rfl | rfl
  · exact requestCheck_of_lengthAgrees c 0x04 rfl rfl h4
  · exact requestCheck_of_lengthAgrees c 0x06 rfl rfl h6
  · exact requestCheck_of_lengthAgrees c 0x07 rfl rfl h7

/-- The checks on an ENCODE request (R62 checks 2 and 5). -/
theorem requestCheck_encodeRequest {serial : BitVec 64} {password : Bytes} {cmd : BitVec 16}
    {payload : Bytes} (c : Config) (h : (Instr.encode serial password cmd payload).wellFormed = true) :
    requestCheck c (encode (.encode serial password cmd payload)) =
      (Instr.encode serial password cmd payload).rejection c := by
  obtain ⟨hhead, hlen⟩ := Laws.RequestFormat.encode serial password cmd payload h
  obtain ⟨hpw, hfits⟩ := (Bool.and_eq_true _ _).mp h
  obtain ⟨-, -, -, -, hcount, -⟩ :=
    encodeRequest_operands serial cmd rfl (beq_iff_eq.mp hpw) (of_decide_eq_true hfits)
  rw [requestCheck_of_lengthAgrees c 0x03 hhead rfl hlen, hcount]
  simp [Instr.rejection]

/-- The checks on a command-code row's request all pass. -/
theorem requestCheck_requestFrame {f : Bytes} (c : Config) (ph : Phases) (h : countFits f = true) :
    requestCheck c (requestFrame ph f) = none := by
  rw [requestFrame, requestCheck_decode c _ h, Instr.rejection, phasesOf_phasesByte]
  rfl

/-- The request checks find on an instruction's request what its meaning rejects (R62). -/
theorem requestCheck_encode {i : Instr} (c : Config) (h : i.wellFormed = true) :
    requestCheck c (encode i) = i.rejection c := by
  cases i with
  | reset => rfl
  | feed ph chunk => exact requestCheck_feed c ph h
  | encode serial password cmd payload => exact requestCheck_encodeRequest c h
  | validate data => exact requestCheck_data c h (.inl rfl)
  | decode ph f => exact requestCheck_decode c ph ((Bool.and_eq_true _ _).mp h).1
  | csumDec data => exact requestCheck_data c h (.inr (.inl rfl))
  | csumEnc data => exact requestCheck_data c h (.inr (.inr rfl))
  | reservedOp op operands =>
    have hop : op.toNat = 0 ∨ 8 ≤ op.toNat := by simpa [Instr.wellFormed, opReserved] using h
    exact if_pos hop
  | unknown ph f =>
    simp only [Instr.wellFormed, frameUnassigned, Bool.and_eq_true] at h
    obtain ⟨⟨hfits, -⟩, -⟩ := h
    exact requestCheck_requestFrame c ph hfits
  | loginBeacon ph f | loginResponse ph f | acStatus4 ph f | chargeStatus5 ph f
  | chargeStatus6 ph f | chargeStartAck ph f | chargeStopAck ph f | acStatus13 ph f
  | systemTime ph f | version ph f | outputAmps ph f | deviceName ph f | language ph f
  | temperatureUnit ph f =>
    exact requestCheck_requestFrame c ph (countFits_of_code h)

/-- A length that disagrees, as `lengthAgrees` tests it: `k` bytes of fixed part, `m` of operand. -/
theorem format_disagrees {n k m : Nat} (h : n < k ∨ n ≠ k + m) :
    (decide (k ≤ n) && n == k + m) = false := by
  simp only [Bool.and_eq_false_iff, decide_eq_false_iff_not, beq_eq_false_iff_ne]
  omega

/-- A `HOST_PD` request is refused only for its length (R62 check 2). -/
theorem decodePhData_eq_error {q : Bytes} {mk : Byte → Bytes → Instr} {c : RejectCode}
    (h : decodePhData q mk = .error c) :
    c = .badOperand ∧ (q.length < 4 ∨ q.length ≠ 4 + u16be q 2) := by
  rw [decodePhData] at h
  split at h <;> cases h
  exact ⟨rfl, ‹_›⟩

/-- A `HOST_D` request is refused only for its length (R62 check 2). -/
theorem decodeData_eq_error {q : Bytes} {mk : Bytes → Instr} {c : RejectCode}
    (h : decodeData q mk = .error c) :
    c = .badOperand ∧ (q.length < 3 ∨ q.length ≠ 3 + u16be q 1) := by
  rw [decodeData] at h
  split at h <;> cases h
  exact ⟨rfl, ‹_›⟩

/-- A `HOST_E` request is refused only for its length (R62 check 2). -/
theorem decodeEncodeOperands_eq_error {q : Bytes} {c : RejectCode}
    (h : decodeEncodeOperands q = .error c) :
    c = .badOperand ∧ (q.length < 19 ∨ q.length ≠ 19 + u16be q 17) := by
  rw [decodeEncodeOperands] at h
  split at h <;> cases h
  exact ⟨rfl, ‹_›⟩

/-- The decoder refuses a request with an OP byte only when its length disagrees with the format (R62
check 2). -/
theorem decode_cons_eq_error {op : Byte} {operands : Bytes} {c : RejectCode}
    (h : decode (op :: operands) = .error c) :
    c = .badOperand ∧ opReserved op = false ∧ lengthAgrees op.toNat (op :: operands) = false := by
  cases hres : opReserved op with
  | true => rw [decode_reservedOp operands hres] at h; cases h
  | false =>
    rcases op_cases_of_not_reserved hres with rfl | rfl | rfl | rfl | rfl | rfl | rfl
    · cases operands with
      | nil => cases h
      | cons a rest => cases h; exact ⟨rfl, rfl, by simp [lengthAgrees]⟩
    · obtain ⟨rfl, hlen⟩ := decodeEncodeOperands_eq_error h
      exact ⟨rfl, rfl, format_disagrees hlen⟩
    iterate 2
      · obtain ⟨rfl, hlen⟩ := decodePhData_eq_error h
        exact ⟨rfl, rfl, format_disagrees hlen⟩
    all_goals
      obtain ⟨rfl, hlen⟩ := decodeData_eq_error h
      exact ⟨rfl, rfl, format_disagrees hlen⟩

/-- What the decoder refuses, the request checks reject with the same code (R62). -/
theorem requestCheck_of_decode_error {q : Bytes} {code : RejectCode} (c : Config)
    (h : decode q = .error code) : requestCheck c q = some code := by
  cases q with
  | nil => cases h; rfl
  | cons op operands =>
    obtain ⟨rfl, hres, hlen⟩ := decode_cons_eq_error h
    have hop : ¬ (op.toNat = 0 ∨ 8 ≤ op.toNat) := by simpa [opReserved] using hres
    simp only [requestCheck, if_neg hop, hlen, if_true]

/-- A step that serves a request answers it as the request checks say (R62). -/
theorem step_of_requestCheck {s : State} {q : Bytes} {rest : List Bytes} (h : s.inbox = q :: rest) :
    (∀ c, requestCheck s.cfg q = some c → step s = rejectRequest c { s with inbox := rest }) ∧
      (requestCheck s.cfg q = none → AnswersOk { s with inbox := rest } (step s)) := by
  simp only [step, State.fetch_of_inbox s q h]
  cases hq : decode q with
  | error code =>
    rw [requestCheck_of_decode_error s.cfg hq]
    exact ⟨fun c hc => by cases hc; rfl, nofun⟩
  | ok i =>
    obtain ⟨hwf, rfl⟩ := encode_of_decode hq
    rw [requestCheck_encode s.cfg hwf]
    exact ⟨fun _ hc => exec_of_rejection_eq_some hc, fun hn => exec_of_rejection_eq_none hn⟩

end Sys2Proof

namespace Sys2Proof.Proofs

open Sys2Proof.Machine

/-- Settles O1: the decoder undoes the encoder, row by row. -/
theorem decodeOfEncodeIsTheInstruction : Obligations.DecodeOfEncodeIsTheInstruction :=
  fun _ hi => decode_encode hi

/-- Settles O2: the operands read from an accepted request write its bytes again. -/
theorem encodeOfDecodeIsTheRequest : Obligations.EncodeOfDecodeIsTheRequest :=
  fun _ _ hq => encode_of_decode hq

/-- Settles O3: each of the five is the request of the instruction it stands for. -/
theorem writtenRequestsDecode : Obligations.WrittenRequestsDecode :=
  ⟨decode_encode (i := .reset) rfl,
    decode_encode (i := .csumDec []) rfl,
    decode_encode (i := .encode 0x0102030405060708 [0x31, 0x32, 0x33, 0x34, 0x35, 0x36] 1 []) rfl,
    decode_encode (i := .feed 3 [0xAA, 0xBB]) rfl,
    decode_encode (i := .reservedOp 0x08 [0x55]) rfl⟩

/-- Settles O7: the decoder refuses what the first two checks reject, and the meanings do the other three. -/
theorem requestChecksDecideRejection : Obligations.RequestChecksDecideRejection :=
  fun _ _ _ hq => step_of_requestCheck hq

/-- Settles O9: whatever a step does, it does with the request taken, and appends one response. -/
theorem eachRequestGetsOneResponse : Obligations.EachRequestGetsOneResponse := by
  intro s t q rest hq hstep
  obtain ⟨buf, len, response, hnext, -⟩ := step_of_inbox_cons hq
  rw [hnext] at hstep
  cases hstep
  exact ⟨rfl, response, rfl⟩

/-- Settles O31: a reserved OP is an instruction of its own, whose meaning is to reject. -/
theorem reservedOpIsRejected : Obligations.ReservedOpIsRejected := by
  intro s op operands hop
  exact ⟨decode_reservedOp operands (by simpa [opReserved] using hop), rejectRequest_eq .badOp s⟩

/-- Settles O57: the pieces from offset 0 on. -/
theorem feedSplitPiecesJoin : Obligations.FeedSplitPiecesJoin :=
  fun b _ hrise _ => flatten_cuts b (List.pairwise_cons.mpr ⟨fun k _ => Nat.zero_le k, hrise⟩)

end Sys2Proof.Proofs

/-!
PROOFS. The Reassembler family (40_reassembler.md): what a FEED leaves from what placing its delivery
leaves, the rest after a cut is shorter than the delivery, a frame fed in pieces, and the statements O15
and O32 to O40.
-/

/-! ### Deliveries and where they are placed -/

namespace Sys2Proof.Machine

/-- A continuation is a sequence that does not begin with the magic (R101, R103). -/
theorem isHeader_eq_false_iff (w : Bytes) : isHeader w = false ↔ w.take 2 ≠ [0x06, 0x01] := by
  rw [← Bool.not_eq_true, isHeader_iff]

theorem ne_nil_of_isHeader {w : Bytes} (h : isHeader w = true) : w ≠ [] :=
  List.length_pos_iff.mp (Nat.lt_of_lt_of_le Nat.two_pos (two_le_length_of_isHeader h))

/-- The header test of a sequence is that of its first two or more bytes (R101). -/
theorem isHeader_of_isHeader_append {w v : Bytes} (h : isHeader (w ++ v) = true) (hn : 2 ≤ w.length) :
    isHeader w = true := by
  rw [isHeader_iff, List.take_append_of_le_length hn] at h
  exact (isHeader_iff w).mpr h

/-- A header delivery's byte 3, if it is there, is the declared length (R102). -/
theorem placeWork_header_of_byte {work : Bytes} {l : Byte} (buf : Bytes) (len : Option Nat)
    (hh : isHeader work = true) (h3 : work[3]? = some l) :
    placeWork buf len work = (work, some l.toNat) := by
  have hn : 3 < work.length := (List.getElem?_eq_some_iff.mp h3).1
  rw [placeWork_header buf len hh hn, byteAt_of_getElem? h3]

theorem feedChunk_nil (judge : Bytes → Event) (buf : Bytes) (len : Option Nat) :
    feedChunk judge buf len [] = ⟨[], buf, len⟩ := rfl

/-- A placed sequence of exactly its declared length is one candidate, and the engine is IDLE after it
(R104). -/
theorem feedChunk_complete {judge : Bytes → Event} {buf b chunk : Bytes} {len : Option Nat}
    (hc : chunk ≠ []) (hp : placeWork buf len chunk = (b, some b.length)) (hb : b ≠ []) :
    feedChunk judge buf len chunk = ⟨[judge b], [], none⟩ := by
  rw [feedChunk_cut hc hp (List.length_pos_iff.mpr hb) (Nat.le_refl _), List.drop_length,
    List.take_length, feedChunk_nil]

/-! ### The rest after a cut -/

/-- What is left after a cut is shorter than the delivery: a header delivery loses its first bytes, an
inferred length leaves nothing, and under R27 the pending bytes alone were below a known length (R108). -/
theorem length_rest_lt {buf b chunk : Bytes} {len : Option Nat} {l : Nat}
    (hinv : raInv buf len = true) (hc : chunk ≠ []) (hp : placeWork buf len chunk = (b, some l))
    (h1 : 1 ≤ l) : (b.drop l).length < chunk.length := by
  have hpos : 0 < chunk.length := List.length_pos_iff.mpr hc
  rcases placeWork_cases buf len chunk with
    ⟨-, -, e⟩ | ⟨-, -, e⟩ | ⟨-, -, e⟩ | ⟨-, k, rfl, e⟩ <;> rw [e] at hp <;> cases hp
  case inr.inl => rw [List.length_drop]; omega
  case inr.inr.inl => simpa using hpos
  case inr.inr.inr =>
    obtain ⟨-, -, -, -, -, hlt⟩ := (raInv_some_iff buf l).mp hinv
    rw [List.length_drop, List.length_append]
    omega

/-- Each pass emits one event at most and leaves a shorter rest (R108). -/
theorem length_events_feedChunk_le (judge : Bytes → Event) (buf : Bytes) (len : Option Nat)
    (chunk : Bytes) (hinv : raInv buf len = true) :
    (feedChunk judge buf len chunk).events.length ≤ chunk.length := by
  rcases feedChunk_cases judge buf len chunk with
    ⟨-, e⟩ | ⟨-, b, -, e⟩ | ⟨hc, b, -, e⟩ | ⟨-, b, l, -, -, e⟩ | ⟨hc, b, l, hp, h1, -, e⟩ <;> rw [e]
  · exact Nat.zero_le _
  · exact Nat.zero_le _
  · exact List.length_pos_iff.mpr hc
  · exact Nat.zero_le _
  · have hrest := length_rest_lt hinv hc hp h1
    have ih := length_events_feedChunk_le judge [] none (b.drop l) raInv_idle
    rw [List.length_cons]
    omega
termination_by chunk.length
decreasing_by exact length_rest_lt hinv hc hp h1

/-! ### Valid frames of at most 255 bytes -/

/-- A valid frame of at most 255 bytes is a header delivery that declares its own length (R132, R134). -/
theorem header_of_validate {f : Bytes} (hv : validate f = .valid) (hn : f.length ≤ 255) :
    25 ≤ f.length ∧ isHeader f = true ∧ (byteAt f 3).toNat = f.length := by
  obtain ⟨h25, h0, h1, h3, -⟩ := (validate_eq_valid_iff f).mp hv
  refine ⟨h25, ?_, by omega⟩
  match f, h0, h1 with
  | [], h0, _ => exact absurd h0 (by decide)
  | [_], _, h1 => exact absurd h1 (by simp [byteAt])
  | a :: b :: _, h0, h1 =>
    rw [byteAt_cons_zero] at h0
    rw [byteAt_cons_succ, byteAt_cons_zero] at h1
    simp [isHeader, h0, h1]

/-- Only a valid candidate gives a FRAME event (R150). -/
theorem validate_of_process_frame {c : Config} {p : Phases} {f : Bytes} {kind : Kind} {h : Header}
    {record : Record} (hf : process c p f = .frame kind h record) : validate f = .valid := by
  cases hv : validate f with
  | valid => rfl
  | drop reason =>
    rw [process_of_drop c p hv] at hf
    cases hf

/-- A valid frame at the start of a delivery is cut from it, whatever was pending (R102, R104). -/
theorem feedChunk_validFrame_append {judge : Bytes → Event} {f : Bytes} (buf : Bytes)
    (len : Option Nat) (work : Bytes) (hv : validate f = .valid) (hn : f.length ≤ 255) :
    feedChunk judge buf len (f ++ work) =
      { feedChunk judge [] none work with
        events := judge f :: (feedChunk judge [] none work).events } := by
  obtain ⟨h25, hh, h3⟩ := header_of_validate hv hn
  have hh' : isHeader (f ++ work) = true := isHeader_append hh work
  have hp : placeWork buf len (f ++ work) = (f ++ work, some f.length) := by
    rw [placeWork_header buf len hh' (by simp; omega), byteAt_append_left work (by omega), h3]
  rw [feedChunk_cut (ne_nil_of_isHeader hh') hp (by omega) (by simp), List.take_left, List.drop_left]

/-! ### A frame in pieces -/

/-- What the FEEDs of a list of deliveries leave, one after the other: all their events in order, and the
Reassembler's state at the end. -/
def feedPieces (judge : Bytes → Event) (buf : Bytes) (len : Option Nat) : List Bytes → Placed
  | [] => ⟨[], buf, len⟩
  | piece :: later =>
    let first := feedChunk judge buf len piece
    let after := feedPieces judge first.buf first.len later
    { after with events := first.events ++ after.events }

section
variable {judge : Bytes → Event} {buf b piece : Bytes} {len : Option Nat} {later : List Bytes}

/-- A first delivery without an event only sets the state for the later ones. -/
theorem feedPieces_cons_of_silent {len' : Option Nat}
    (h : feedChunk judge buf len piece = ⟨[], b, len'⟩) :
    feedPieces judge buf len (piece :: later) = feedPieces judge b len' later := by
  simp [feedPieces, h]

/-- Empty deliveries change nothing (R106). -/
theorem feedPieces_of_flatten_nil (judge : Bytes → Event) (buf : Bytes) (len : Option Nat)
    (h : later.flatten = []) : feedPieces judge buf len later = ⟨[], buf, len⟩ := by
  induction later with
  | nil => rfl
  | cons piece later ih =>
    obtain ⟨rfl, hlater⟩ := List.append_eq_nil_iff.mp h
    rw [feedPieces_cons_of_silent (feedChunk_nil judge buf len), ih hlater]

/-- A delivery that completes the frame, with only empty ones after it. -/
theorem feedPieces_cons_of_complete (hc : piece ≠ [])
    (hp : placeWork buf len piece = (b, some b.length)) (hb : b ≠ []) (h : later.flatten = []) :
    feedPieces judge buf len (piece :: later) = ⟨[judge b], [], none⟩ := by
  simp [feedPieces, feedChunk_complete hc hp hb, feedPieces_of_flatten_nil judge _ _ h]

/-- Continuations that together reach a known length give the one candidate (R103, R104). -/
theorem feedPieces_collecting {l : Nat} (hlt : buf.length < l)
    (hl : (buf ++ later.flatten).length = l)
    (hmagic : ∀ piece ∈ later, piece.take 2 ≠ [0x06, 0x01]) :
    feedPieces judge buf (some l) later = ⟨[judge (buf ++ later.flatten)], [], none⟩ := by
  induction later generalizing buf with
  | nil =>
    rw [List.flatten_nil, List.append_nil] at hl
    omega
  | cons piece later ih =>
    obtain ⟨hpiece, hlater⟩ := List.forall_mem_cons.mp hmagic
    have hp := placeWork_known buf l ((isHeader_eq_false_iff piece).mpr hpiece)
    rw [List.flatten_cons, ← List.append_assoc] at hl ⊢
    by_cases hc : piece = []
    · subst hc
      rw [List.append_nil] at hl ⊢
      rw [feedPieces_cons_of_silent (feedChunk_nil judge buf _)]
      exact ih hlt hl hlater
    · rcases Nat.lt_or_ge (buf ++ piece).length l with hshort | hreached
      · rw [feedPieces_cons_of_silent (feedChunk_collecting hc hp hshort)]
        exact ih hshort hl hlater
      · rw [List.length_append] at hl
        have hnil : later.flatten = [] := List.length_eq_zero_iff.mp (by omega)
        have hlen : (buf ++ piece).length = l := by omega
        rw [← hlen] at hp ⊢
        rw [feedPieces_cons_of_complete hc hp (by simp [hc]) hnil, hnil, List.append_nil]

/-- R111 (a): the first piece holds the frame's length byte, and the later ones are continuations. -/
theorem feedPieces_of_longHeader {first : Bytes} (h4 : 4 ≤ first.length)
    (hv : validate (first ++ later.flatten) = .valid) (hn : (first ++ later.flatten).length ≤ 255)
    (hmagic : ∀ piece ∈ later, piece.take 2 ≠ [0x06, 0x01]) :
    feedPieces judge buf len (first :: later) = ⟨[judge (first ++ later.flatten)], [], none⟩ := by
  obtain ⟨-, hh, h3⟩ := header_of_validate hv hn
  have hfirst : isHeader first = true := isHeader_of_isHeader_append hh (by omega)
  have hp := placeWork_header buf len hfirst h4
  rw [byteAt_append_left _ h4] at h3
  rw [h3] at hp
  have hc : first ≠ [] := ne_nil_of_isHeader hfirst
  rcases Nat.lt_or_ge first.length (first ++ later.flatten).length with hshort | hwhole
  · rw [feedPieces_cons_of_silent (feedChunk_collecting hc hp hshort),
      feedPieces_collecting hshort rfl hmagic]
  · have hnil : later.flatten = [] := by
      rw [List.length_append] at hwhole
      exact List.length_eq_zero_iff.mp (by omega)
    rw [hnil, List.append_nil] at hp ⊢
    exact feedPieces_cons_of_complete hc hp hc hnil

/-- R111 (b): a header without its length byte, and one continuation, which infers the whole length. -/
theorem feedPieces_of_shortHeader {first second : Bytes} (h2 : 2 ≤ first.length)
    (h4 : first.length < 4) (hv : validate (first ++ second) = .valid)
    (hn : (first ++ second).length ≤ 255) (hmagic : second.take 2 ≠ [0x06, 0x01]) :
    feedPieces judge buf len [first, second] = ⟨[judge (first ++ second)], [], none⟩ := by
  obtain ⟨h25, hh, -⟩ := header_of_validate hv hn
  have hfirst : isHeader first = true := isHeader_of_isHeader_append hh h2
  have hsecond : second ≠ [] := by
    rintro rfl
    rw [List.append_nil] at h25
    omega
  rw [feedPieces_cons_of_silent
    (feedChunk_pending (ne_nil_of_isHeader hfirst) (placeWork_shortHeader buf len hfirst h4))]
  exact feedPieces_cons_of_complete hsecond
    (placeWork_infer first ((isHeader_eq_false_iff second).mpr hmagic)) (by simp [hsecond]) rfl

end

/-! ### FEED as an instruction and as a request -/

/-- A FEED that runs leaves what placing its delivery leaves (R100). -/
theorem exec_feed_of_feedChunk {s : State} {p : Phases} {chunk buf : Bytes} {events : List Event}
    {len : Option Nat} (hfits : chunk.length ≤ s.cfg.chunkMax)
    (h : feedChunk (process s.cfg p) s.raBuf s.raLen chunk = ⟨events, buf, len⟩) :
    exec (.feed (phasesByte p) chunk) s = .next ((s.setRa buf len).respond (okEvents events)) := by
  rw [show exec (.feed (phasesByte p) chunk) s = _ from execFeed_eq s p chunk hfits, h]

/-- The event DECODE answers is the one `Process` gives (R150). -/
theorem process_of_exec_decode {s : State} {p : Phases} {f : Bytes} {e : Event}
    (h : exec (.decode (phasesByte p) f) s = .next { s with responses := s.responses ++
      [{ status := .ok, events := [e], value := none }] }) : process s.cfg p f = e := by
  rw [show exec (.decode (phasesByte p) f) s = _ from execDecode_eq s p f] at h
  simpa [State.respond, okEvents] using h

/-- Operand bytes 1 and 3 are the two phase counts (R62 check 3). -/
theorem exists_eq_phasesByte {ph : Byte} (h : ph.toNat = 1 ∨ ph.toNat = 3) :
    ∃ p, ph = phasesByte p := by
  rcases h with h | h
  · exact ⟨.one, BitVec.eq_of_toNat_eq h⟩
  · exact ⟨.three, BitVec.eq_of_toNat_eq h⟩

theorem run_succ_of_step {s t : State} (k : Nat) (h : step s = .next t) :
    Host.Core.run Sys2Proof.core (k + 1) s = Host.Core.run Sys2Proof.core k t := by
  have hcore : Sys2Proof.core.step s = .next t := h
  simp only [Host.Core.run, hcore]

/-- The state that a FEED that runs leaves (R100). -/
def State.afterFeed (s : State) (p : Phases) (chunk : Bytes) : State :=
  let placed := feedChunk (process s.cfg p) s.raBuf s.raLen chunk
  (s.setRa placed.buf placed.len).respond (okEvents placed.events)

/-- The step that serves a FEED request. -/
theorem step_of_feed_request {s : State} {p : Phases} {chunk : Bytes} {rest : List Bytes}
    (hcount : countFits chunk = true) (hfits : chunk.length ≤ s.cfg.chunkMax)
    (hq : s.inbox = encode (.feed (phasesByte p) chunk) :: rest) :
    step s = .next (State.afterFeed { s with inbox := rest } p chunk) := by
  have hdecode := decode_encode (i := .feed (phasesByte p) chunk) hcount
  simp only [step, State.fetch_of_inbox s _ hq, hdecode]
  exact execFeed_eq _ p chunk hfits

/-- A run that serves the FEEDs of a list of deliveries. -/
theorem run_feeds (p : Phases) {pieces rest : List Bytes} {s : State}
    (hcount : ∀ piece ∈ pieces, countFits piece = true)
    (hfits : ∀ piece ∈ pieces, piece.length ≤ s.cfg.chunkMax)
    (hq : s.inbox = pieces.map (fun piece => encode (.feed (phasesByte p) piece)) ++ rest) :
    let placed := feedPieces (process s.cfg p) s.raBuf s.raLen pieces
    ∃ answers,
      Host.Core.run Sys2Proof.core pieces.length s =
        .next { s with raBuf := placed.buf, raLen := placed.len, inbox := rest,
                       responses := s.responses ++ answers } ∧
      answers.flatMap Response.events = placed.events := by
  induction pieces generalizing s with
  | nil =>
    refine ⟨[], ?_, rfl⟩
    rw [List.append_nil, ← show s.inbox = rest from hq]
    rfl
  | cons piece later ih =>
    obtain ⟨hcount1, hcount⟩ := List.forall_mem_cons.mp hcount
    obtain ⟨hfits1, hfits⟩ := List.forall_mem_cons.mp hfits
    have hstep := step_of_feed_request hcount1 hfits1 hq
    obtain ⟨answers, hrun, hevents⟩ :=
      ih (s := State.afterFeed { s with inbox := _ } p piece) hcount hfits rfl
    refine ⟨okEvents (feedChunk (process s.cfg p) s.raBuf s.raLen piece).events :: answers, ?_, ?_⟩
    · rw [List.length_cons, run_succ_of_step _ hstep]
      refine hrun.trans ?_
      simp [State.afterFeed, feedPieces]
    · rw [List.flatMap_cons, hevents]
      rfl

end Sys2Proof.Machine

/-! ### The statements of the Reassembler family -/

namespace Sys2Proof.Proofs

open Sys2Proof.Machine

/-- Settles O15. -/
theorem resetDiscardsThePendingFrame : Obligations.ResetDiscardsThePendingFrame :=
  ⟨decode_encode (i := .reset) rfl, fun _ => rfl⟩

/-- Settles O32: the rejections in R62's order, and the frame of a FEED that runs. -/
theorem feedIsRejectedOrRuns : Obligations.FeedIsRejectedOrRuns := by
  intro s ph chunk
  refine ⟨fun h1 h3 => ?_, fun hph hlong => ?_, fun hph hfits => ?_⟩
  · have hnone : phasesOf ph = none := (phasesOf_eq_none_iff ph).mpr ⟨h1, h3⟩
    exact exec_of_rejection_eq_some (by simp [Instr.rejection, hnone])
  · obtain ⟨p, rfl⟩ := exists_eq_phasesByte hph
    exact exec_of_rejection_eq_some (by simp [Instr.rejection, hlong])
  · obtain ⟨p, rfl⟩ := exists_eq_phasesByte hph
    exact ⟨_, _, _, execFeed_eq s p chunk hfits⟩

/-- Settles O33. -/
theorem emptyDeliveryChangesNothing : Obligations.EmptyDeliveryChangesNothing :=
  fun s _ => exec_feed_of_feedChunk (Nat.zero_le _) (feedChunk_nil _ s.raBuf s.raLen)

/-- Settles O34: the placed header is kept, without its length byte or below the length it declares. -/
theorem headerDeliveryStartsAFrame : Obligations.HeaderDeliveryStartsAFrame := by
  intro s p chunk hfits hmagic
  have hh : isHeader chunk = true := (isHeader_iff chunk).mpr hmagic
  have hc : chunk ≠ [] := ne_nil_of_isHeader hh
  refine ⟨fun hn => ?_, fun l h3 hl => ?_⟩
  · exact exec_feed_of_feedChunk hfits (feedChunk_pending hc (placeWork_shortHeader _ _ hh hn))
  · exact exec_feed_of_feedChunk hfits
      (feedChunk_collecting hc (placeWork_header_of_byte _ _ hh h3) hl)

/-- Settles O35: an inferred length is the buffer's own, so it is reached at once; a known one is not. -/
theorem continuationExtendsTheFrame : Obligations.ContinuationExtendsTheFrame := by
  intro s p chunk hc hfits hmagic
  have hh : isHeader chunk = false := (isHeader_eq_false_iff chunk).mpr hmagic
  refine ⟨fun hlen => ?_, fun l hlen hl => ?_⟩
  · refine ⟨process s.cfg p (s.raBuf ++ chunk), execDecode_eq s p _, exec_feed_of_feedChunk hfits ?_⟩
    rw [hlen]
    exact feedChunk_complete hc (placeWork_infer _ hh) (by simp [hc])
  · have hkept := feedChunk_collecting (judge := process s.cfg p) hc (placeWork_known _ l hh) hl
    rw [← hlen] at hkept
    exact exec_feed_of_feedChunk hfits hkept

/-- Settles O36. -/
theorem zeroLengthHeaderIsDiscarded : Obligations.ZeroLengthHeaderIsDiscarded := by
  intro s p chunk hfits hmagic h3
  have hh : isHeader chunk = true := (isHeader_iff chunk).mpr hmagic
  exact exec_feed_of_feedChunk hfits
    (feedChunk_zeroLength (ne_nil_of_isHeader hh) (placeWork_header_of_byte _ _ hh h3))

/-- Settles O37: a header delivery and a continuation below a known length place `whole` with the length
`l`, so both are cut there; the rest is short enough for a FEED of its own. -/
theorem completeFrameIsCutAndTheRestReentered :
    Obligations.CompleteFrameIsCutAndTheRestReentered := by
  intro s p chunk whole l hinv hc hfits hwhole h1 hl
  have hp : placeWork s.raBuf s.raLen chunk = (whole, some l) := by
    rcases hwhole with ⟨hmagic, h3, rfl⟩ | ⟨hmagic, hlen, rfl⟩
    · obtain ⟨b, hb, rfl⟩ := Option.map_eq_some_iff.mp h3
      exact placeWork_header_of_byte _ _ ((isHeader_iff _).mpr hmagic) hb
    · rw [hlen]
      exact placeWork_known _ l ((isHeader_eq_false_iff chunk).mpr hmagic)
  have hrest := length_rest_lt hinv hc hp h1
  have hrestFits : (whole.drop l).length ≤ s.cfg.chunkMax := by omega
  exact ⟨_, _, _, _, execDecode_eq s p _,
    execFeed_eq (s.setRa [] none) p _ hrestFits, exec_feed_of_feedChunk hfits (feedChunk_cut hc hp h1 hl)⟩

/-- Settles O38: each event comes with a shorter rest. -/
theorem feedEmitsAtMostOneEventPerByte : Obligations.FeedEmitsAtMostOneEventPerByte :=
  fun s p chunk hinv hfits => ⟨_, _, _, execFeed_eq s p chunk hfits,
    length_events_feedChunk_le (process s.cfg p) s.raBuf s.raLen chunk hinv⟩

/-- Settles O39: the run of the pieces leaves what placing them leaves, which is the frame's one event. -/
theorem splitFrameIsReassembledOnce : Obligations.SplitFrameIsReassembledOnce := by
  intro s p first later rest kind h record hbuf hlen hn hfits hmagic hsplit hdecode hq
  have hframe := process_of_exec_decode hdecode
  have hv := validate_of_process_frame hframe
  have hpieces : feedPieces (process s.cfg p) s.raBuf s.raLen (first :: later) =
      ⟨[.frame kind h record], [], none⟩ := by
    rw [← hframe]
    rcases hsplit with h4 | ⟨h23, hone⟩
    · exact feedPieces_of_longHeader h4 hv hn hmagic
    · obtain ⟨second, rfl⟩ := List.length_eq_one_iff.mp hone
      rw [List.flatten_singleton] at hv hn ⊢
      exact feedPieces_of_shortHeader (by omega) (by omega) hv hn (hmagic second List.mem_cons_self)
  have hcount : ∀ piece ∈ first :: later, countFits piece = true := by
    intro piece hmem
    have hle : piece.length ≤ (first :: later).flatten.length :=
      (List.sublist_flatten_of_mem hmem).length_le
    rw [List.flatten_cons] at hle
    exact decide_eq_true (by omega)
  obtain ⟨answers, hrun, hevents⟩ := run_feeds p hcount hfits hq
  rw [hpieces] at hrun hevents
  refine ⟨answers, hrun.trans ?_, hevents⟩
  rw [hbuf, hlen]

/-- Settles O40: the first frame is cut and the second, re-entered, is a whole delivery. -/
theorem coalescedFramesAreEmittedInOrder : Obligations.CoalescedFramesAreEmittedInOrder := by
  intro s p f1 f2 k1 k2 h1 h2 r1 r2 hbuf hlen hn1 hn2 hfits hdecode1 hdecode2
  have hframe1 := process_of_exec_decode hdecode1
  have hframe2 := process_of_exec_decode hdecode2
  have hv1 := validate_of_process_frame hframe1
  have hv2 := validate_of_process_frame hframe2
  have hsecond : feedChunk (process s.cfg p) [] none f2 = ⟨[.frame k2 h2 r2], [], none⟩ := by
    have hcut := feedChunk_validFrame_append (judge := process s.cfg p) [] none [] hv2 hn2
    rwa [List.append_nil, hframe2] at hcut
  have hboth : feedChunk (process s.cfg p) s.raBuf s.raLen (f1 ++ f2) =
      ⟨[.frame k1 h1 r1, .frame k2 h2 r2], s.raBuf, s.raLen⟩ := by
    rw [feedChunk_validFrame_append _ _ f2 hv1 hn1, hsecond, hframe1, hbuf, hlen]
  exact exec_feed_of_feedChunk hfits hboth

end Sys2Proof.Proofs

/-!
PROOFS. The validator family (41_validator.md): each verdict under its check, what replacing a byte does to
the checks, the two checksums compared, the frame ENCODE builds under VALIDATE, and the statements O19 to
O24.
-/

/-! ### Two bytes read at once -/

namespace Sys2Proof.Machine

/-- A slice of two bytes. -/
theorem slice_two_eq {b : Bytes} {o : Nat} (h : o + 2 ≤ b.length) :
    slice b o (o + 2) = [byteAt b o, byteAt b (o + 1)] :=
  (be16_u16be_eq_slice h).symm.trans (be16_u16be b o)

/-- The header check, on the first two bytes at once. -/
theorem take_two_eq_iff {b : Bytes} {x y : Byte} (h : 2 ≤ b.length) :
    b.take 2 = [x, y] ↔ byteAt b 0 = x ∧ byteAt b 1 = y := by
  rw [← slice_zero, slice_two_eq (o := 0) (by omega)]
  simp

/-- The trailer check, on the last two bytes at once. -/
theorem drop_sub_two_eq_iff {b : Bytes} {x y : Byte} (h : 2 ≤ b.length) :
    b.drop (b.length - 2) = [x, y] ↔
      byteAt b (b.length - 2) = x ∧ byteAt b (b.length - 1) = y := by
  have hslice : b.drop (b.length - 2) = slice b (b.length - 2) (b.length - 2 + 2) :=
    (List.take_of_length_le (by simp; omega)).symm
  rw [hslice, slice_two_eq (by omega), show b.length - 2 + 1 = b.length - 1 by omega]
  simp

/-- The stored checksum, on its two bytes at once (R136). -/
theorem beValue_drop_take_two {b : Bytes} {o : Nat} (h : o + 2 ≤ b.length) :
    beValue ((b.drop o).take 2) = u16be b o := by
  have hslice : (b.drop o).take 2 = slice b o (o + 2) := by simp [slice]
  rw [hslice, slice_two_eq h, beValue_cons, beValue_cons]
  simp [u16be]

theorem getElem?_eq_some_byteAt {b : Bytes} {i : Nat} (h : i < b.length) : b[i]? = some (byteAt b i) := by
  simp [byteAt, h]

/-! ### The verdict of each check -/

/-- A candidate that passes every check before the checksum (R132). -/
structure Framed (f : Bytes) : Prop where
  notShort : 25 ≤ f.length
  magic0 : byteAt f 0 = 0x06
  magic1 : byteAt f 1 = 0x01
  lengthByte : (byteAt f 3).toNat = f.length % 256
  trailer0 : byteAt f (f.length - 2) = 0x0F
  trailer1 : byteAt f (f.length - 1) = 0x02

/-- After the first four checks only the checksum decides (R132). -/
theorem Framed.validate_eq {f : Bytes} (h : Framed f) :
    validate f =
      if csumDec (f.take (f.length - 4)) = u16be f (f.length - 4) then .valid else .drop .checksum :=
  validate_of_framed h.notShort h.magic0 h.magic1 h.lengthByte h.trailer0 h.trailer1

theorem validate_eq_valid_iff_framed (f : Bytes) :
    validate f = .valid ↔
      Framed f ∧ csumDec (f.take (f.length - 4)) = u16be f (f.length - 4) := by
  rw [validate_eq_valid_iff]
  exact ⟨fun ⟨hn, h0, h1, h3, ht, hu, hc⟩ => ⟨⟨hn, h0, h1, h3, ht, hu⟩, hc⟩,
    fun ⟨⟨hn, h0, h1, h3, ht, hu⟩, hc⟩ => ⟨hn, h0, h1, h3, ht, hu, hc⟩⟩

theorem validate_of_short {f : Bytes} (hn : f.length < 25) : validate f = .drop .short := if_pos hn

theorem validate_of_bad_header {f : Bytes} (hn : 25 ≤ f.length)
    (h : byteAt f 0 ≠ 0x06 ∨ byteAt f 1 ≠ 0x01) : validate f = .drop .header := by
  simp only [validate, if_neg (Nat.not_lt.mpr hn), if_pos h]

theorem validate_of_bad_length {f : Bytes} (hn : 25 ≤ f.length) (h0 : byteAt f 0 = 0x06)
    (h1 : byteAt f 1 = 0x01) (h : (byteAt f 3).toNat ≠ f.length % 256) :
    validate f = .drop .length := by
  simp [validate, Nat.not_lt.mpr hn, h0, h1, h]

/-- With the magic and the length byte right, the verdict is no drop for HEADER or LENGTH (R133). -/
theorem validate_of_good_length {f : Bytes} (hn : 25 ≤ f.length) (h0 : byteAt f 0 = 0x06)
    (h1 : byteAt f 1 = 0x01) (h3 : (byteAt f 3).toNat = f.length % 256) :
    validate f =
      if byteAt f (f.length - 2) ≠ 0x0F ∨ byteAt f (f.length - 1) ≠ 0x02 then .drop .trailer
      else if csumDec (f.take (f.length - 4)) ≠ u16be f (f.length - 4) then .drop .checksum
      else .valid := by
  simp [validate, Nat.not_lt.mpr hn, h0, h1, h3]

/-! ### Replacing one byte -/

theorem u16be_set_of_lt (b : Bytes) {i o : Nat} (x : Byte) (h : i < o) :
    u16be (b.set i x) o = u16be b o := by
  simp only [u16be]
  rw [byteAt_set_ne b x (by omega), byteAt_set_ne b x (by omega)]

/-- A changed byte of a two-byte number changes the number. -/
theorem u16be_set_ne {b : Bytes} {i o : Nat} {x : Byte} (hi : i = o ∨ i = o + 1) (hlt : i < b.length)
    (hx : (byteAt b i).toNat ≠ x.toNat) : u16be (b.set i x) o ≠ u16be b o := by
  have hbyte := (byteAt b (o + 1)).isLt
  have hx8 := x.isLt
  simp only [u16be]
  rcases hi with rfl | rfl
  · rw [byteAt_set_self x hlt, byteAt_set_ne b x (by omega)]
    omega
  · rw [byteAt_set_self x hlt, byteAt_set_ne b x (by omega)]
    omega

/-- A changed byte moves the sum by a nonzero amount of at most 255, so the sum modulo 65536 changes
(R137). -/
theorem csumDec_set_ne {b : Bytes} {i : Nat} {x : Byte} (hlt : i < b.length)
    (hx : (byteAt b i).toNat ≠ x.toNat) : csumDec (b.set i x) ≠ csumDec b := by
  have hsum := byteSum_set b i x hlt
  have hx8 := x.isLt
  have hbyte := (byteAt b i).isLt
  simp only [csumDec]
  omega

/-- Two bytes replaced by two of the same sum leave the sum of all (R137). -/
theorem byteSum_set_set {b : Bytes} {i j : Nat} {x y : Byte} (hi : i < b.length) (hj : j < b.length)
    (hij : i ≠ j) (hxy : x.toNat + y.toNat = (byteAt b i).toNat + (byteAt b j).toNat) :
    byteSum ((b.set i x).set j y) = byteSum b := by
  have hfirst := byteSum_set b i x hi
  have hsecond := byteSum_set (b.set i x) j y (by simpa using hj)
  rw [byteAt_set_ne b x hij] at hsecond
  omega

/-- A replaced byte that is neither of the magic, nor the length byte, nor of the trailer leaves the first
four checks as they were. -/
theorem Framed.set {f : Bytes} {i : Nat} (h : Framed f) (x : Byte) (h2 : 2 ≤ i) (h3 : i ≠ 3)
    (hlt : i < f.length - 2) : Framed (f.set i x) where
  notShort := by simpa using h.notShort
  magic0 := by rw [byteAt_set_ne f x (by omega), h.magic0]
  magic1 := by rw [byteAt_set_ne f x (by omega), h.magic1]
  lengthByte := by rw [byteAt_set_ne f x h3, List.length_set, h.lengthByte]
  trailer0 := by rw [List.length_set, byteAt_set_ne f x (by omega), h.trailer0]
  trailer1 := by rw [List.length_set, byteAt_set_ne f x (by omega), h.trailer1]

/-- The drop that the place of a changed byte gives (R137). -/
def alterationDrop (n i : Nat) : DropReason :=
  if i = 0 ∨ i = 1 then .header else if i = 3 then .length else if n - 2 ≤ i then .trailer else .checksum

section Alteration

variable {f : Bytes} {i : Nat} {x : Byte}

theorem validate_set_magic (h : Framed f) (hi : i = 0 ∨ i = 1) (hx : byteAt f i ≠ x) :
    validate (f.set i x) = .drop .header := by
  have hn := h.notShort
  refine validate_of_bad_header (by simpa using hn) ?_
  rcases hi with rfl | rfl
  · left
    rw [byteAt_set_self x (by omega), ← h.magic0]
    exact hx.symm
  · right
    rw [byteAt_set_self x (by omega), ← h.magic1]
    exact hx.symm

theorem validate_set_lengthByte (h : Framed f) (hx : (byteAt f 3).toNat ≠ x.toNat) :
    validate (f.set 3 x) = .drop .length := by
  have hn := h.notShort
  refine validate_of_bad_length (by simpa using hn) ?_ ?_ ?_
  · rw [byteAt_set_ne f x (by decide), h.magic0]
  · rw [byteAt_set_ne f x (by decide), h.magic1]
  · rw [byteAt_set_self x (by omega), List.length_set, ← h.lengthByte]
    exact hx.symm

theorem validate_set_trailer (h : Framed f) (hi : f.length - 2 ≤ i) (hlt : i < f.length)
    (hx : byteAt f i ≠ x) : validate (f.set i x) = .drop .trailer := by
  have hn := h.notShort
  rw [validate_of_good_length (by simpa using hn) (by rw [byteAt_set_ne f x (by omega), h.magic0])
    (by rw [byteAt_set_ne f x (by omega), h.magic1])
    (by rw [byteAt_set_ne f x (by omega), List.length_set, h.lengthByte]), List.length_set]
  refine if_pos ?_
  obtain rfl | rfl : i = f.length - 2 ∨ i = f.length - 1 := by omega
  · left
    rw [byteAt_set_self x hlt, ← h.trailer0]
    exact hx.symm
  · right
    rw [byteAt_set_self x hlt, ← h.trailer1]
    exact hx.symm

/-- A changed byte before the trailer changes either the sum or the stored checksum, never both. -/
theorem validate_set_summed (hv : validate f = .valid) (h2 : 2 ≤ i) (h3 : i ≠ 3)
    (hlt : i < f.length - 2) (hx : (byteAt f i).toNat ≠ x.toNat) :
    validate (f.set i x) = .drop .checksum := by
  obtain ⟨h, hsum⟩ := (validate_eq_valid_iff_framed f).mp hv
  have hn := h.notShort
  rw [(h.set x h2 h3 hlt).validate_eq, List.length_set]
  refine if_neg ?_
  rcases Nat.lt_or_ge i (f.length - 4) with hbody | hstored
  · rw [List.take_set, u16be_set_of_lt f x hbody, ← hsum]
    refine csumDec_set_ne (by simp; omega) ?_
    rwa [byteAt_take hbody]
  · rw [List.take_set_of_le hstored, hsum]
    exact (u16be_set_ne (by omega) (by omega) hx).symm

/-- A changed byte of a valid frame is a drop, with the reason of its place (R137). -/
theorem validate_set (hv : validate f = .valid) (hlt : i < f.length) (hx : byteAt f i ≠ x) :
    validate (f.set i x) = .drop (alterationDrop f.length i) := by
  obtain ⟨h, -⟩ := (validate_eq_valid_iff_framed f).mp hv
  have hx' : (byteAt f i).toNat ≠ x.toNat := fun e => hx (BitVec.eq_of_toNat_eq e)
  unfold alterationDrop
  split_ifs with hmagic hlength htrailer
  · exact validate_set_magic h hmagic hx
  · subst hlength
    exact validate_set_lengthByte h hx'
  · exact validate_set_trailer h htrailer hlt hx
  · exact validate_set_summed hv (by omega) hlength (by omega) hx'

/-- Two summed bytes changed to two of the same sum are not detected (R137). -/
theorem validate_set_set {j : Nat} {y : Byte} (hv : validate f = .valid) (hi4 : 4 ≤ i)
    (hi : i < f.length - 4) (hj4 : 4 ≤ j) (hj : j < f.length - 4) (hij : i ≠ j)
    (hxy : x.toNat + y.toNat = (byteAt f i).toNat + (byteAt f j).toNat) :
    validate ((f.set i x).set j y) = .valid := by
  obtain ⟨h, hsum⟩ := (validate_eq_valid_iff_framed f).mp hv
  have hfirst : Framed (f.set i x) := h.set x (by omega) (by omega) (by omega)
  refine (validate_eq_valid_iff_framed _).mpr
    ⟨hfirst.set y (by omega) (by omega) (by rw [List.length_set]; omega), ?_⟩
  have hsame : byteSum (((f.take (f.length - 4)).set i x).set j y) = byteSum (f.take (f.length - 4)) :=
    byteSum_set_set (by simp; omega) (by simp; omega) hij
      (by rwa [byteAt_take hi, byteAt_take hj])
  rw [List.length_set, List.length_set, List.take_set, List.take_set, u16be_set_of_lt _ y hj,
    u16be_set_of_lt f x hi, ← hsum, csumDec, hsame, csumDec]

end Alteration

/-! ### The two checksums, and the frame ENCODE builds -/

/-- Below `65535 * 65536` the two remainders agree only where neither modulus is reached (R135). -/
theorem csumEnc_eq_csumDec_iff {b : Bytes} (h : byteSum b < 65535 * 65536) :
    csumEnc b = csumDec b ↔ byteSum b < 65535 := by
  simp only [csumEnc, csumDec]
  omega

theorem csumEnc_lt (b : Bytes) : csumEnc b < 65536 :=
  (Nat.mod_lt _ (by decide)).trans (by decide)

theorem byteSum_replicate (n : Nat) (x : Byte) : byteSum (List.replicate n x) = n * x.toNat := by
  simp [byteSum]

theorem byteSum_be16 (v : Nat) : byteSum (be16 v) = v / 256 % 256 + v % 256 := by
  simp [be16]

/-- The sum of a built body, with its fixed bytes and its length added up (R135). -/
theorem byteSum_frameBody (serial : Nat) (password : Bytes) (cmd : Nat) (payload : Bytes) :
    byteSum (frameBody serial password cmd payload) =
      7 + ((25 + payload.length) / 256 % 256 + (25 + payload.length) % 256) + byteSum (le64 serial)
        + byteSum password + byteSum (be16 cmd) + byteSum payload := by
  simp [frameBody, byteSum_be16]
  omega

section BuiltFrame

variable (serial : Nat) {password : Bytes} (cmd : Nat) (payload : Bytes)

/-- Up to 265 bytes the body's sum stays below 65535 (R135). -/
theorem byteSum_frameBody_le (hpw : password.length = 6) (hfits : payload.length ≤ 240) :
    byteSum (frameBody serial password cmd payload) ≤ 65297 := by
  have hserial := byteSum_le (le64 serial)
  have hpassword := byteSum_le password
  have hcmd := byteSum_le (be16 cmd)
  have hpayload := byteSum_le payload
  rw [le64_length] at hserial
  rw [hpw] at hpassword
  rw [be16_length] at hcmd
  rw [byteSum_frameBody]
  rcases Nat.lt_or_ge payload.length 231 with hshort | hlong
  · omega
  · omega

/-- The bytes before a built frame's checksum are its body. -/
theorem take_buildFrame :
    (buildFrame serial password cmd payload).take ((buildFrame serial password cmd payload).length - 4) =
      frameBody serial password cmd payload := by
  rw [buildFrame, List.append_assoc]
  exact List.take_left' (by simp)

/-- A built frame stores the encode-side checksum of its body. -/
theorem u16be_buildFrame :
    u16be (buildFrame serial password cmd payload)
        ((buildFrame serial password cmd payload).length - 4) =
      csumEnc (frameBody serial password cmd payload) :=
  u16be_of_eq_append [0x0F, 0x02] rfl (by simp; omega) (csumEnc_lt _)

/-- A built frame passes the first four checks by construction (R135). -/
theorem framed_buildFrame (hpw : password.length = 6) :
    Framed (buildFrame serial password cmd payload) := by
  have hn : (buildFrame serial password cmd payload).length =
      (frameBody serial password cmd payload ++
        be16 (csumEnc (frameBody serial password cmd payload))).length + 2 := by
    simp [buildFrame]
  refine ⟨by simp; omega, rfl, rfl, ?_, ?_, ?_⟩
  · have hbyte : byteAt (buildFrame serial password cmd payload) 3 = byteOf (25 + payload.length) := rfl
    rw [hbyte, buildFrame_length, hpw, BitVec.toNat_ofNat]
  · rw [hn, Nat.add_sub_cancel]
    exact byteAt_append_right _ [0x0F, 0x02] 0
  · rw [hn, Nat.add_sub_assoc (by decide)]
    exact byteAt_append_right _ [0x0F, 0x02] 1

theorem validate_buildFrame (hpw : password.length = 6) (hfits : payload.length ≤ 65510) :
    validate (buildFrame serial password cmd payload) =
      if byteSum (frameBody serial password cmd payload) < 65535 then .valid else .drop .checksum := by
  have hsum : byteSum (frameBody serial password cmd payload) < 65535 * 65536 := by
    have hle := byteSum_le (frameBody serial password cmd payload)
    rw [frameBody_length] at hle
    omega
  rw [(framed_buildFrame serial cmd payload hpw).validate_eq, take_buildFrame, u16be_buildFrame]
  exact if_congr (eq_comm.trans (csumEnc_eq_csumDec_iff hsum)) rfl rfl

end BuiltFrame

end Sys2Proof.Machine

/-! ### The statements of the validator family -/

namespace Sys2Proof.Proofs

open Sys2Proof.Machine

/-- Settles O22: a built frame is judged by the decode-side sum against the stored encode-side sum; all
operand bytes `FF` and 241 of payload bring the sum to 65553. -/
theorem checksumsAgreeBelow65535 : Obligations.ChecksumsAgreeBelow65535 := by
  refine ⟨fun x => ⟨csumEnc_eq_csumDec_iff, fun hn => ?_⟩, fun serial password cmd payload hpw hfits =>
    ⟨validate_buildFrame serial.toNat cmd.toNat payload hpw hfits,
      byteSum_frameBody_le serial.toNat cmd.toNat payload hpw⟩,
    BitVec.allOnes 64, List.replicate 6 0xFF, BitVec.allOnes 16, List.replicate 241 0xFF, rfl,
    List.length_replicate, ?_⟩
  · have hsum := byteSum_le x
    omega
  · have hserial : byteSum (le64 (BitVec.allOnes 64).toNat) = 2040 := by decide
    rw [validate_buildFrame _ _ _ rfl (by rw [List.length_replicate]; decide), byteSum_frameBody,
      hserial, byteSum_be16, byteSum_replicate, byteSum_replicate, List.length_replicate]
    exact if_neg (by decide)

/-- Settles O23: the cut keeps the magic and the length byte, and its length is that byte. -/
theorem headerCandidatePassesHeaderAndLength : Obligations.HeaderCandidatePassesHeaderAndLength := by
  intro w l hmagic h3 hl
  have hlen : (w.take l.toNat).length = l.toNat := List.length_take_of_le hl
  rcases Nat.lt_or_ge l.toNat 25 with hshort | h25
  · rw [validate_of_short (hlen.trans_lt hshort)]
    exact ⟨by simp, by simp⟩
  · obtain ⟨h0, h1⟩ := (take_two_eq_iff (by omega)).mp hmagic
    have hl8 := l.isLt
    rw [validate_of_good_length (by omega) (by rw [byteAt_take (by omega), h0])
      (by rw [byteAt_take (by omega), h1])
      (by rw [byteAt_take (by omega), byteAt_of_getElem? h3, hlen]; omega)]
    split_ifs <;> simp

/-- Settles O24: the place of the byte names the check that sees it changed, and no check sees a sum kept. -/
theorem singleByteAlterationIsDetected : Obligations.SingleByteAlterationIsDetected := by
  intro f hv _
  refine ⟨fun i b hlt hb => validate_set hv hlt fun e => hb ?_, fun i j x y hi4 hi hj4 hj hij hxy =>
    validate_set_set hv hi4 hi hj4 hj hij hxy⟩
  rw [getElem?_eq_some_byteAt hlt, e]

/-- Settles O19. -/
theorem csumDecIsTheSumModulo65536 : Obligations.CsumDecIsTheSumModulo65536 :=
  ⟨fun data hfits => decode_encode (i := .csumDec data) (decide_eq_true hfits), fun _ _ => rfl⟩

/-- Settles O20. -/
theorem csumEncIsTheSumModulo65535 : Obligations.CsumEncIsTheSumModulo65535 :=
  ⟨fun data hfits => decode_encode (i := .csumEnc data) (decide_eq_true hfits),
    fun _ _ => ⟨Nat.le_of_lt_succ (Nat.mod_lt _ (by decide)), rfl⟩⟩

/-- Settles O21: past the length check every place the checks read is there, so each is the written one. -/
theorem validateReportsTheFirstFailingCheck : Obligations.ValidateReportsTheFirstFailingCheck := by
  intro s f n verdict
  have hverdict : validate f = verdict := by
    rcases Nat.lt_or_ge f.length 25 with hshort | hn
    · exact (validate_of_short hshort).trans (if_pos hshort).symm
    · have hheader := (take_two_eq_iff (b := f) (x := 0x06) (y := 0x01) (by omega)).not
      have htrailer := (drop_sub_two_eq_iff (b := f) (x := 0x0F) (y := 0x02) (by omega)).not
      have hlength : f[3]? = some (byteAt f 3) := getElem?_eq_some_byteAt (by omega)
      have hstored : beValue ((f.drop (f.length - 4)).take 2) = u16be f (f.length - 4) :=
        beValue_drop_take_two (by omega)
      simp only [verdict, n, validate, hlength, hstored, ne_eq, hheader, htrailer, not_and_or,
        Option.map_some, Option.some.injEq, slice_zero, csumDec, byteSum, eq_comm]
  exact congrArg (fun v => answerValue (.verdict v) s) hverdict

end Sys2Proof.Proofs

/-!
PROOFS. The decoder family (42_decoder.md): the fields of a written-out frame read back, a command code's
kind and its instruction, the name lookups, the login record and its byte orders, and the statements O4,
O27, O28, O41, O42, O44, O45, O46 and O58.
-/

/-! ### The header of a written-out frame -/

namespace Sys2Proof.Machine

/-- A byte is read back from between what stands before and after it. -/
theorem byteAt_of_eq_append {q a : Bytes} {x : Byte} (c : Bytes) {i : Nat} (hq : q = a ++ [x] ++ c)
    (hi : a.length = i) : byteAt q i = x := by
  rw [hq, ← hi, List.append_assoc]
  exact byteAt_append_right a ([x] ++ c) 0

/-- A big-endian number of two bytes is read back from between what stands before and after it. -/
theorem u16be_eq_beValue_of_eq_append {q a b : Bytes} (c : Bytes) {i : Nat} (hq : q = a ++ b ++ c)
    (hi : a.length = i) (hb : b.length = 2) : u16be q i = beValue b := by
  have hfits : i + 2 ≤ q.length := by simp [hq]; omega
  have hslice : (q.drop i).take 2 = slice q i (i + 2) := by simp [slice]
  rw [← beValue_drop_take_two hfits, hslice, slice_of_eq_append c hq hi (by rw [hb])]

/-- R70's layout, read back: each field of a frame stands where R151 reads it. -/
theorem frame_fields {len2 serial password cmd payload csum trailer f : Bytes} {key : Byte}
    (hf : f = [0x06, 0x01] ++ len2 ++ [key] ++ serial ++ password ++ cmd ++ payload ++ csum ++ trailer)
    (hlen2 : len2.length = 2) (hserial : serial.length = 8) (hpassword : password.length = 6)
    (hcmd : cmd.length = 2) (hcsum : csum.length = 2) (htrailer : trailer.length = 2) :
    byteAt f 4 = key ∧ u64le f 5 = leValue serial ∧ slice f 13 19 = password ∧
      frameCode f = beValue cmd ∧ payloadOf f = payload ∧ u16be f (f.length - 4) = beValue csum := by
  have hn : f.length = 25 + payload.length := by simp [hf]; omega
  refine ⟨?_, ?_, ?_, ?_, ?_, ?_⟩
  · exact byteAt_of_eq_append (a := [0x06, 0x01] ++ len2)
      (serial ++ password ++ cmd ++ payload ++ csum ++ trailer) (by simp [hf]) (by simp [hlen2])
  · exact congrArg leValue (slice_of_eq_append (a := [0x06, 0x01] ++ len2 ++ [key])
      (password ++ cmd ++ payload ++ csum ++ trailer) (by simp [hf]) (by simp [hlen2]) (by omega))
  · exact slice_of_eq_append (a := [0x06, 0x01] ++ len2 ++ [key] ++ serial)
      (cmd ++ payload ++ csum ++ trailer) (by simp [hf]) (by simp [hlen2, hserial]) (by omega)
  · exact u16be_eq_beValue_of_eq_append (a := [0x06, 0x01] ++ len2 ++ [key] ++ serial ++ password)
      (payload ++ csum ++ trailer) (by simp [hf]) (by simp [hlen2, hserial, hpassword]) hcmd
  · exact slice_of_eq_append (a := [0x06, 0x01] ++ len2 ++ [key] ++ serial ++ password ++ cmd)
      (csum ++ trailer) (by simp [hf]) (by simp [hlen2, hserial, hpassword, hcmd]) (by omega)
  · exact u16be_eq_beValue_of_eq_append trailer hf (by simp; omega) hcsum

@[simp] theorem header_serial_toNat (f : Bytes) : (header f).serial.toNat = u64le f 5 :=
  Nat.mod_eq_of_lt (u64le_lt f 5)

@[simp] theorem header_cmd_toNat (f : Bytes) : (header f).cmd.toNat = frameCode f :=
  Nat.mod_eq_of_lt (u16be_lt f 19)

@[simp] theorem header_csum_toNat (f : Bytes) : (header f).csum.toNat = u16be f (f.length - 4) :=
  Nat.mod_eq_of_lt (u16be_lt f (f.length - 4))

/-! ### A command code's kind and its instruction -/

/-- The fourteen command codes R72 assigns. -/
def assignedCodes : List Nat := [1, 2, 4, 13, 5, 6, 7, 8, 257, 262, 263, 264, 271, 274]

/-- No kind claims any other code (R73). -/
theorem dispatchKind_of_unassigned {cmd : Nat} (h : cmd ∉ assignedCodes) :
    dispatchKind cmd = .unknown := by
  unfold dispatchKind
  split
  case h_15 => rfl
  all_goals exact absurd (by decide) h

/-- A frame's instruction answers the event of its command code's kind (R150, R152). -/
theorem exec_frameInstr (p : Phases) (f : Bytes) (s : State) :
    exec (frameInstr p f) s =
      answerEvent (frameEvent (dispatchKind (frameCode f)) f
        (kindDecode s.cfg (dispatchKind (frameCode f)) (payloadOf f) p)) s := by
  unfold frameInstr
  split
  case h_15 =>
    have hkind : dispatchKind (frameCode f) = .unknown :=
      dispatchKind_of_unassigned (by simp_all [assignedCodes])
    rw [hkind]
    rfl
  all_goals
    rename_i hcode
    rw [hcode]
    rfl

/-! ### The empty payload -/

theorem payloadOf_length (f : Bytes) : (payloadOf f).length = f.length - 25 := by
  simp [payloadOf]
  omega

/-- Only UNKNOWN reads no field (R153). -/
theorem readsField_eq_true_iff (kind : Kind) : readsField kind = true ↔ kind ≠ .unknown := by
  cases kind <;> simp [readsField]

/-- R150's corner case: a kind that reads a field answers a DECODE_ERROR to an empty payload (log 25). -/
theorem frameEvent_of_empty {kind : Kind} {f : Bytes} (r : Decoded Record)
    (hkind : kind ≠ .unknown) (hp : payloadOf f = []) :
    frameEvent kind f r = .decodeError (header f).cmd .payloadShort f := by
  rcases frameEvent_cases kind f r with ⟨-, -, hne, -⟩ | ⟨-, h⟩
  · exact absurd hp (hne ((readsField_eq_true_iff kind).mpr hkind))
  · exact h

/-! ### Lookups in a table -/

/-- In a map with no key twice, an entry is the one its key finds (R10, R155). -/
theorem lookup_of_mem_of_nodup {t : List (Nat × String)} {code : Nat} {name : String}
    (hmem : (code, name) ∈ t) (hnodup : (t.map Prod.fst).Nodup) : t.lookup code = some name := by
  induction t with
  | nil => cases hmem
  | cons entry t ih =>
    obtain ⟨hfresh, hnodup⟩ := List.nodup_cons.mp hnodup
    rcases List.mem_cons.mp hmem with rfl | hmem
    · exact List.lookup_cons_self
    · have hne : code ≠ entry.1 := by
        rintro rfl
        exact hfresh (List.mem_map.mpr ⟨_, hmem, rfl⟩)
      rw [List.lookup_cons, beq_false_of_ne hne]
      exact ih hmem hnodup

theorem lookup_of_not_mem {t : List (Nat × String)} {code : Nat}
    (h : code ∉ t.map Prod.fst) : t.lookup code = none := by
  refine List.lookup_eq_none_iff.mpr fun entry hmem => ?_
  have hne : code ≠ entry.1 := by
    rintro rfl
    exact h (List.mem_map_of_mem hmem)
  simpa using hne

/-! ### The login record -/

/-- A payload decode that answers no value answers PAYLOAD_SHORT, the one reason there is (R304). -/
theorem decoded_eq_error {α : Type} {x : Decoded α} (h : ∀ a, x ≠ .ok a) :
    x = .error .payloadShort := by
  cases x with
  | error reason => cases reason; rfl
  | ok a => exact absurd rfl (h a)

/-- What R159 reads from a payload that holds every field of the login layout. -/
def loginRecord (c : Config) (p : Bytes) : LoginRecord :=
  { type := (p.getD c.login.typeOff 0).toNat
    phases := phaseCount (p.getD c.login.typeOff 0).toNat
    manufacturer := extentBytes p c.login.manuf.off c.login.manuf.extent
    model := extentBytes p c.login.model.off c.login.model.extent
    hwVersion := extentBytes p c.login.hwver.off c.login.hwver.extent
    powerRaw := composePower c.powerCompose ((p.drop c.login.powerOff).take 4)
    maxAmps := (p.getD c.login.maxAmpsOff 0).toNat }

/-- The login layout fits when each of its six fields does (R158). -/
theorem fieldsFit_login_iff (c : Config) (n : Nat) :
    fieldsFit c .loginBeacon n = true ↔
      c.login.typeOff + 1 ≤ n ∧ extentEnd c.login.manuf.off c.login.manuf.extent ≤ n ∧
        extentEnd c.login.model.off c.login.model.extent ≤ n ∧
        extentEnd c.login.hwver.off c.login.hwver.extent ≤ n ∧ c.login.powerOff + 4 ≤ n ∧
        c.login.maxAmpsOff + 1 ≤ n := by
  simp [fieldsFit, fieldEnds]

theorem loginDecode_of_fits {c : Config} {p : Bytes}
    (h : fieldsFit c .loginBeacon p.length = true) : loginDecode c p = .ok (loginRecord c p) := by
  obtain ⟨htype, hmanuf, hmodel, hhwver, hpower, hamps⟩ := (fieldsFit_login_iff c p.length).mp h
  simp only [loginDecode, readField, readByte_of_fits htype, readSpan_of_fits hmanuf,
    readSpan_of_fits hmodel, readSpan_of_fits hhwver,
    readSpan_of_fits (e := .fixed 4) hpower, readByte_of_fits hamps]
  rfl

theorem fits_of_loginDecode {c : Config} {p : Bytes} {r : LoginRecord}
    (h : loginDecode c p = .ok r) : fieldsFit c .loginBeacon p.length = true := by
  obtain ⟨_, htype, h⟩ := decoded_bind h
  obtain ⟨_, hmanuf, h⟩ := decoded_bind h
  obtain ⟨_, hmodel, h⟩ := decoded_bind h
  obtain ⟨_, hhwver, h⟩ := decoded_bind h
  obtain ⟨_, hpower, h⟩ := decoded_bind h
  obtain ⟨_, hamps, -⟩ := decoded_bind h
  exact (fieldsFit_login_iff c p.length).mpr ⟨fits_of_readUInt htype, fits_of_readSpan hmanuf,
    fits_of_readSpan hmodel, fits_of_readSpan hhwver, fits_of_readSpan hpower, fits_of_readUInt hamps⟩

/-- The first login field that does not fit fails the decode (R159, R48). -/
theorem loginDecode_of_short {c : Config} {p : Bytes}
    (h : fieldsFit c .loginBeacon p.length = false) : loginDecode c p = .error .payloadShort :=
  decoded_eq_error fun _ hok => by
    rw [fits_of_loginDecode hok] at h
    cases h

/-- A payload that holds the login fields is not empty: one of them is a byte. -/
theorem payload_ne_nil_of_fits_login {c : Config} {p : Bytes}
    (h : fieldsFit c .loginBeacon p.length = true) : p ≠ [] := by
  rintro rfl
  obtain ⟨htype, -⟩ := (fieldsFit_login_iff c _).mp h
  exact Nat.not_succ_le_zero _ htype

end Sys2Proof.Machine

/-! ### The statements of the decoder family -/

namespace Sys2Proof.Proofs

open Sys2Proof.Machine

/-- Settles O28: each field stands at R151's offset, and no width of the header is too small for it. -/
theorem headerReadsEachField : Obligations.HeaderReadsEachField := by
  intro len2 serial password cmd payload csum trailer key hlen2 hserial hpassword hcmd hcsum htrailer h
  obtain ⟨hkey, hserialValue, hpasswordBytes, hcmdValue, hpayload, hcsumValue⟩ :=
    frame_fields rfl hlen2 hserial hpassword hcmd hcsum htrailer (payload := payload) (key := key)
  exact ⟨hkey, (header_serial_toNat _).trans hserialValue, hpasswordBytes,
    (header_cmd_toNat _).trans hcmdValue, hpayload, (header_csum_toNat _).trans hcsumValue⟩

/-- Settles O42: both are the event of the command code's kind. -/
theorem decodeOfAValidFrameIsItsKind : Obligations.DecodeOfAValidFrameIsItsKind := by
  intro s p f hv
  calc exec (.decode (phasesByte p) f) s
    _ = answerEvent (process s.cfg p f) s := execDecode_eq s p f
    _ = exec (frameInstr p f) s := by rw [process_of_valid s.cfg p hv, exec_frameInstr]

/-- Settles O58: the corner case for a kind that reads a field; UNKNOWN reads none. -/
theorem emptyPayloadIsADecodeErrorUnlessUnknown :
    Obligations.EmptyPayloadIsADecodeErrorUnlessUnknown := by
  intro s p f hv hn
  have hp : payloadOf f = [] := List.eq_nil_of_length_eq_zero (by rw [payloadOf_length, hn])
  rw [decodeOfAValidFrameIsItsKind s p f hv, exec_frameInstr]
  refine ⟨fun hkind => ?_, fun hkind => ?_⟩
  · rw [frameEvent_of_empty _ hkind hp]
    rfl
  · rw [hkind]
    rfl

/-- Settles O4. -/
theorem dispatchFollowsTheCommandCodeMap : Obligations.DispatchFollowsTheCommandCodeMap :=
  ⟨rfl, fun _ => dispatchKind_of_unassigned⟩

/-- Settles O27: a list holds an entry at each index below its length, a map at each of its keys. -/
theorem lookupGivesEntryOrPlaceholder : Obligations.LookupGivesEntryOrPlaceholder := by
  refine ⟨fun t code => ⟨fun e he => ?_, fun hlen => ?_⟩, fun t code => ⟨fun e hmem hnodup => ?_,
    fun hmem => ?_⟩⟩
  · rw [lookupList, he, Option.getD_some]
  · rw [lookupList, List.getElem?_eq_none hlen, Option.getD_none, placeholder]
  · rw [lookupMap, lookup_of_mem_of_nodup hmem hnodup, Option.getD_some]
  · rw [lookupMap, lookup_of_not_mem hmem, Option.getD_none, placeholder]

/-- Settles O41: the phase count is checked first, then `Process` drops the candidate. -/
theorem decodeDropsAnInvalidCandidate : Obligations.DecodeDropsAnInvalidCandidate := by
  refine fun s ph f => ⟨fun hph reason hv => ?_, fun h1 h3 => ?_⟩
  · obtain ⟨p, rfl⟩ := exists_eq_phasesByte hph
    have hexec : exec (.decode (phasesByte p) f) s = answerEvent (process s.cfg p f) s :=
      execDecode_eq s p f
    rw [hexec, process_of_drop s.cfg p hv]
    rfl
  · have hnone : phasesOf ph = none := (phasesOf_eq_none_iff ph).mpr ⟨h1, h3⟩
    exact exec_of_rejection_eq_some (by rw [Instr.rejection, if_pos hnone])

/-- Settles O44: codes 1 and 2 share one layout, whose decode answers its record or PAYLOAD_SHORT. -/
theorem loginFramesDecode : Obligations.LoginFramesDecode := by
  intro s ph f answers p l t record
  have hbeacon : exec (.loginBeacon ph f) s =
      answers (frameEvent .loginBeacon f (.login <$> loginDecode s.cfg p)) := rfl
  have hresponse : exec (.loginResponse ph f) s =
      answers (frameEvent .loginResponse f (.login <$> loginDecode s.cfg p)) := rfl
  refine ⟨fun hfits => ?_, fun hshort => ?_⟩
  · have hp : payloadOf f ≠ [] := payload_ne_nil_of_fits_login hfits
    rw [hbeacon, hresponse, loginDecode_of_fits hfits]
    exact ⟨congrArg answers (frameEvent_ok .loginBeacon record hp),
      congrArg answers (frameEvent_ok .loginResponse record hp)⟩
  · rw [hbeacon, hresponse, loginDecode_of_short hshort]
    exact ⟨rfl, rfl⟩

/-- Settles O45: R157's ten device types are two ranges. -/
theorem phaseCountOfADeviceType : Obligations.PhaseCountOfADeviceType := by
  intro t
  have hmem : t ∈ [10, 11, 12, 13, 14, 15, 22, 23, 24, 25] ↔
      (10 ≤ t ∧ t ≤ 15) ∨ (22 ≤ t ∧ t ≤ 25) := by
    simp only [List.mem_cons, List.not_mem_nil, or_false]
    omega
  exact ⟨fun h => if_pos (hmem.mpr h), fun h => if_neg fun ht => h (hmem.mp ht)⟩

/-- Settles O46: each reading is a sum of the four bytes at the places it gives them. -/
theorem powerCompositionReadings : Obligations.PowerCompositionReadings := by
  intro b0 b1 b2 b3 b
  simp only [b, composePower, u32be, u32le, u16be, u16le, byteAt_cons_zero, byteAt_cons_succ,
    beValue_cons, beValue_nil, leValue_cons, leValue_nil, List.length_cons, List.length_nil]
  refine ⟨?_, ?_, ?_, ?_⟩ <;> omega

end Sys2Proof.Proofs

/-!
PROOFS. The charging kinds (43_decoder_charge.md): the first set bit from either end, the current power and
the charging status, the AC-status and charge-status records, the charge acknowledgements, and the
statements O47 to O53.
-/

/-! ### The first set bit -/

namespace Sys2Proof.Machine

theorem lowestBit_eq_some_iff {eb w i : Nat} :
    lowestBit eb w = some i ↔ i < w ∧ eb.testBit i = true ∧ ∀ j < i, eb.testBit j = false := by
  simp only [lowestBit, List.find?_range_eq_some, List.mem_range, Bool.not_eq_true']
  exact ⟨fun ⟨hset, hlt, hlow⟩ => ⟨hlt, hset, hlow⟩, fun ⟨hlt, hset, hlow⟩ => ⟨hset, hlt, hlow⟩⟩

/-- The search from the top looks at the highest bit first. -/
theorem highestBit_succ (eb w : Nat) :
    highestBit eb (w + 1) = if eb.testBit w then some w else highestBit eb w := by
  rw [highestBit, List.range_succ, List.reverse_append, List.reverse_singleton, List.singleton_append,
    List.find?_cons]
  cases eb.testBit w <;> rfl

theorem highest_of_highestBit {eb w i : Nat} (h : highestBit eb w = some i) :
    i < w ∧ eb.testBit i = true ∧ ∀ j < w, i < j → eb.testBit j = false := by
  induction w with
  | zero => cases h
  | succ w ih =>
    rw [highestBit_succ] at h
    split at h
    next hset =>
      cases h
      exact ⟨Nat.lt_succ_self _, hset, fun j hj hlt => absurd hlt (by omega)⟩
    next hclear =>
      obtain ⟨hlt, hset, hhigh⟩ := ih h
      refine ⟨by omega, hset, fun j hj hij => ?_⟩
      rcases Nat.lt_succ_iff_lt_or_eq.mp hj with hj | rfl
      · exact hhigh j hj hij
      · exact Bool.eq_false_of_not_eq_true hclear

/-- A number of `w` bits has no set bit at `w` or above. -/
theorem testBit_of_width_le {eb w j : Nat} (heb : eb < 2 ^ w) (hj : w ≤ j) : eb.testBit j = false :=
  Nat.testBit_eq_false_of_lt (heb.trans_le (Nat.pow_le_pow_right (by decide) hj))

theorem eq_zero_of_no_bit {eb w : Nat} (heb : eb < 2 ^ w) (h : ∀ i < w, eb.testBit i = false) : eb = 0 :=
  Nat.zero_of_testBit_eq_false fun i =>
    (Nat.lt_or_ge i w).elim (h i) (testBit_of_width_le heb)

theorem exists_lowestBit {eb w : Nat} (heb : eb < 2 ^ w) (h0 : eb ≠ 0) : ∃ i, lowestBit eb w = some i :=
  Option.ne_none_iff_exists'.mp fun hnone => h0 <| eq_zero_of_no_bit heb fun i hi => by
    simpa using List.find?_eq_none.mp hnone i (List.mem_range.mpr hi)

theorem exists_highestBit {eb w : Nat} (heb : eb < 2 ^ w) (h0 : eb ≠ 0) : ∃ i, highestBit eb w = some i :=
  Option.ne_none_iff_exists'.mp fun hnone => h0 <| eq_zero_of_no_bit heb fun i hi => by
    simpa using List.find?_eq_none.mp hnone i (List.mem_reverse.mpr (List.mem_range.mpr hi))

theorem firstSet_zero (o : ErrBitOrder) (w : Nat) : firstSet o 0 w = 255 := by
  have hlow : lowestBit 0 w = none := List.find?_eq_none.mpr (by simp)
  have hhigh : highestBit 0 w = none := List.find?_eq_none.mpr (by simp)
  cases o
  case lsbFirst => rw [firstSet, hlow]
  case msbFirst => rw [firstSet, hhigh]

theorem firstSet_lsbFirst {eb w : Nat} (heb : eb < 2 ^ w) (h0 : eb ≠ 0) :
    firstSet .lsbFirst eb w < w ∧ eb.testBit (firstSet .lsbFirst eb w) = true ∧
      ∀ j < firstSet .lsbFirst eb w, eb.testBit j = false := by
  obtain ⟨i, hi⟩ := exists_lowestBit heb h0
  have hfirst : firstSet .lsbFirst eb w = i := by rw [firstSet, hi]
  rw [hfirst]
  exact lowestBit_eq_some_iff.mp hi

/-- From the most significant end the index counts down from `w - 1`, so `w - 1` less the index is the bit. -/
theorem firstSet_msbFirst {eb w : Nat} (heb : eb < 2 ^ w) (h0 : eb ≠ 0) :
    firstSet .msbFirst eb w < w ∧ eb.testBit (w - 1 - firstSet .msbFirst eb w) = true ∧
      ∀ j, w - 1 - firstSet .msbFirst eb w < j → eb.testBit j = false := by
  obtain ⟨i, hi⟩ := exists_highestBit heb h0
  obtain ⟨hlt, hset, hhigh⟩ := highest_of_highestBit hi
  have hfirst : firstSet .msbFirst eb w = w - 1 - i := by rw [firstSet, hi]
  have hback : w - 1 - (w - 1 - i) = i := by omega
  rw [hfirst, hback]
  exact ⟨by omega, hset, fun j hij =>
    (Nat.lt_or_ge j w).elim (fun hj => hhigh j hj hij) (testBit_of_width_le heb)⟩

/-! ### Power and charging status -/

theorem power_one (v a : PerLine Nat) :
    power v a .one = if v.l1 = 0 ∨ a.l1 = 0 then 0 else v.l1 * a.l1 := by
  simp [power, presentLines]

theorem power_three (v a : PerLine Nat) :
    power v a .three =
      if v.l1 = 0 ∨ a.l1 = 0 ∨ v.l2 = 0 ∨ a.l2 = 0 ∨ v.l3 = 0 ∨ a.l3 = 0 then 0
      else v.l1 * a.l1 + v.l2 * a.l2 + v.l3 * a.l3 := by
  simp [power, presentLines, or_assoc, Nat.add_assoc]

/-- Current state 14 is the first whose status depends on the plug state (R188). -/
theorem chargingStatus_fourteen (plugCu : Byte) (pl : Nat) :
    chargingStatus plugCu 14 pl = if pl = plugCl then 2 else if pl = plugCu.toNat then 3 else 0 := by
  simp [chargingStatus]

theorem chargingStatus_fifteen (plugCu : Byte) (pl : Nat) :
    chargingStatus plugCu 15 pl = if pl = plugCl ∨ pl = plugCu.toNat then 4 else 0 := by
  simp [chargingStatus]

theorem chargingStatus_of_not_mem {cu : Nat} (plugCu : Byte) (pl : Nat)
    (h : cu ∉ [13, 14, 15, 17, 20, 12, 1, 10, 11, 2, 3]) : chargingStatus plugCu cu pl = 0 := by
  simp only [List.mem_cons, List.not_mem_nil, or_false, not_or] at h
  simp [chargingStatus, h]

/-! ### The event of a kind whose fields decide it -/

theorem Width.bytes_pos (w : Width) : 0 < w.bytes := by cases w <;> decide

/-- A payload that holds a field of at least one byte is not empty. -/
theorem ne_nil_of_holds {p : Bytes} {off w : Nat} (h : off + w ≤ p.length) (hw : 0 < w) : p ≠ [] :=
  List.ne_nil_of_length_pos (by omega)

/-- A kind whose payload decode answers `record` when its fields fit, and a value only then, gives the FRAME
of that record or a DECODE_ERROR (R150, R304). -/
theorem frameEvent_of_fits {kind : Kind} {f : Bytes} {r : Decoded Record} {record : Record} {fits : Bool}
    (hok : fits = true → r = .ok record) (hfits : ∀ x, r = .ok x → fits = true)
    (hne : fits = true → payloadOf f ≠ []) :
    (fits = true → frameEvent kind f r = .frame kind (header f) record) ∧
      (fits = false → frameEvent kind f r = .decodeError (header f).cmd .payloadShort f) := by
  refine ⟨fun h => ?_, fun h => ?_⟩
  · rw [hok h, frameEvent_ok kind record (hne h)]
  · have hshort : r = .error .payloadShort := decoded_eq_error fun x hx => by simp [hfits x hx] at h
    rw [hshort]
    rfl

/-! ### The AC-status record -/

/-- The three lines' fields end within `n` bytes. -/
def LinesFit (d : PerLine UField) (n : Nat) : Prop :=
  d.l1.off + d.l1.width.bytes ≤ n ∧ d.l2.off + d.l2.width.bytes ≤ n ∧ d.l3.off + d.l3.width.bytes ≤ n

/-- The value of an unsigned field in a payload that holds it (R48). -/
def fieldValue (p : Bytes) (d : UField) : Nat := uintValue d.ord ((p.drop d.off).take d.width.bytes)

/-- The values of the three lines' fields. -/
def lineValues (p : Bytes) (d : PerLine UField) : PerLine Nat :=
  ⟨fieldValue p d.l1, fieldValue p d.l2, fieldValue p d.l3⟩

theorem readU_of_fits {p : Bytes} {d : UField} (h : d.off + d.width.bytes ≤ p.length) :
    readU p d = .ok (fieldValue p d) := readUInt_of_fits h

theorem readLines_of_fits {p : Bytes} {d : PerLine UField} (h : LinesFit d p.length) :
    readLines p d = .ok (lineValues p d) := by
  obtain ⟨h1, h2, h3⟩ := h
  rw [readLines, readU_of_fits h1, readU_of_fits h2, readU_of_fits h3]
  rfl

theorem fits_of_readLines {p : Bytes} {d : PerLine UField} {x : PerLine Nat}
    (h : readLines p d = .ok x) : LinesFit d p.length := by
  obtain ⟨_, h1, h⟩ := decoded_bind h
  obtain ⟨_, h2, h⟩ := decoded_bind h
  obtain ⟨_, h3, -⟩ := decoded_bind h
  exact ⟨fits_of_readUInt h1, fits_of_readUInt h2, fits_of_readUInt h3⟩

/-- Every field of the AC-status layout ends within `n` bytes (R180, R185). -/
structure AcFits (l : AcLayout) (n : Nat) : Prop where
  v : LinesFit l.v n
  a : LinesFit l.a n
  energy : l.energy.off + l.energy.width.bytes ≤ n
  tin : l.tin.off + l.tin.width.width.bytes ≤ n
  tout : l.tout.off + l.tout.width.width.bytes ≤ n
  err : l.errOff + errorBytes n ≤ n
  plug : l.plugOff + 1 ≤ n
  out : l.outOff + 1 ≤ n
  cur : l.curOff + 1 ≤ n

theorem fieldsFit_acStatus_iff (c : Config) (n : Nat) :
    fieldsFit c .acStatus n = true ↔ AcFits c.ac n := by
  simp only [fieldsFit, fieldEnds, List.all_cons, List.all_nil, Bool.and_true, Bool.and_eq_true,
    decide_eq_true_eq]
  constructor
  · rintro ⟨hv1, hv2, hv3, ha1, ha2, ha3, he, hti, hto, herr, hp, ho, hc⟩
    exact ⟨⟨hv1, hv2, hv3⟩, ⟨ha1, ha2, ha3⟩, he, hti, hto, herr, hp, ho, hc⟩
  · rintro ⟨⟨hv1, hv2, hv3⟩, ⟨ha1, ha2, ha3⟩, he, hti, hto, herr, hp, ho, hc⟩
    exact ⟨hv1, hv2, hv3, ha1, ha2, ha3, he, hti, hto, herr, hp, ho, hc⟩

/-- What R181 reads from a payload that holds every field of the AC-status layout. -/
def acRecord (c : Config) (p : Bytes) (ph : Phases) : AcRecord :=
  let uint (off w : Nat) (ord : ByteOrder) := uintValue ord ((p.drop off).take w)
  let byte (off : Nat) := (p.getD off 0).toNat
  let v := lineValues p c.ac.v
  let a := lineValues p c.ac.a
  let ew := errorBytes p.length
  let eb := uint c.ac.errOff ew c.ac.errOrd
  { vRaw := v, aRaw := a, energyRaw := fieldValue p c.ac.energy
    voltage := scaleLines v 10, amperage := scaleLines a 100
    energy := (fieldValue p c.ac.energy : Rat) / 1000
    tIn := temperature (uint c.ac.tin.off c.ac.tin.width.width.bytes c.ac.tin.ord)
    tOut := temperature (uint c.ac.tout.off c.ac.tout.width.width.bytes c.ac.tout.ord)
    errWidth := 8 * ew, errBits := eb, errIndex := firstSet c.errBitOrder eb (8 * ew)
    plugState := byte c.ac.plugOff, outputState := byte c.ac.outOff, currentState := byte c.ac.curOff
    status := chargingStatus c.plugCu (byte c.ac.curOff) (byte c.ac.plugOff)
    powerMw := power v a ph, powerKw := (power v a ph : Rat) / 1000000 }

theorem acDecode_of_fits {c : Config} {p : Bytes} (ph : Phases) (h : AcFits c.ac p.length) :
    acDecode c p ph = .ok (acRecord c p ph) := by
  simp only [acDecode, readTemp, readLines_of_fits h.v, readLines_of_fits h.a, readU_of_fits h.energy,
    readUInt_of_fits h.tin, readUInt_of_fits h.tout, readUInt_of_fits h.err, readByte_of_fits h.plug,
    readByte_of_fits h.out, readByte_of_fits h.cur]
  rfl

theorem fits_of_acDecode {c : Config} {p : Bytes} {ph : Phases} {r : AcRecord}
    (h : acDecode c p ph = .ok r) : AcFits c.ac p.length := by
  obtain ⟨_, hv, h⟩ := decoded_bind h
  obtain ⟨_, ha, h⟩ := decoded_bind h
  obtain ⟨_, he, h⟩ := decoded_bind h
  obtain ⟨_, hti, h⟩ := decoded_bind h
  obtain ⟨_, hto, h⟩ := decoded_bind h
  obtain ⟨_, herr, h⟩ := decoded_bind h
  obtain ⟨_, hp, h⟩ := decoded_bind h
  obtain ⟨_, ho, h⟩ := decoded_bind h
  obtain ⟨_, hc, -⟩ := decoded_bind h
  exact ⟨fits_of_readLines hv, fits_of_readLines ha, fits_of_readUInt he, fits_of_readUInt hti,
    fits_of_readUInt hto, fits_of_readUInt herr, fits_of_readUInt hp, fits_of_readUInt ho,
    fits_of_readUInt hc⟩

/-- An AC-status frame gives its record or a DECODE_ERROR (R181, R304). -/
theorem frameEvent_acStatus (c : Config) (ph : Phases) (f : Bytes) :
    (fieldsFit c .acStatus (payloadOf f).length = true →
      frameEvent .acStatus f (decodeAcStatus c (payloadOf f) ph) =
        .frame .acStatus (header f) (.acStatus (acRecord c (payloadOf f) ph))) ∧
    (fieldsFit c .acStatus (payloadOf f).length = false →
      frameEvent .acStatus f (decodeAcStatus c (payloadOf f) ph) =
        .decodeError (header f).cmd .payloadShort f) := by
  have hiff := fieldsFit_acStatus_iff c (payloadOf f).length
  refine frameEvent_of_fits (fun h => ?_) (fun x hx => ?_) fun h => ?_
  · rw [decodeAcStatus, acDecode_of_fits ph (hiff.mp h)]
    rfl
  · obtain ⟨_, hx, -⟩ := decoded_map hx
    exact hiff.mpr (fits_of_acDecode hx)
  · exact ne_nil_of_holds (hiff.mp h).plug Nat.one_pos

/-! ### The charge-status record -/

/-- What R196 reads from a payload that holds every field of the charge-status layout. -/
def chargeRecord (c : Config) (p : Bytes) : ChargeRecord :=
  { sessionId := extentBytes p c.cs.session.off c.cs.session.extent
    userId := extentBytes p c.cs.user.off c.cs.user.extent
    reservation := (p.getD c.cs.resvOff 0).toNat
    start := (p.getD c.cs.startOff 0).toNat
    chargeType := (p.getD c.cs.ctypeOff 0).toNat
    fees := c.cs.fees.map fun d => feeValue (uintValue d.ord ((p.drop d.off).take 2)) }

/-- The charge-status layout fits when each of its fields and each fee does (R195). -/
theorem fieldsFit_chargeStatus_iff (c : Config) (n : Nat) :
    fieldsFit c .chargeStatus n = true ↔
      extentEnd c.cs.session.off c.cs.session.extent ≤ n ∧
        extentEnd c.cs.user.off c.cs.user.extent ≤ n ∧ c.cs.resvOff + 1 ≤ n ∧
        c.cs.startOff + 1 ≤ n ∧ c.cs.ctypeOff + 1 ≤ n ∧ ∀ d ∈ c.cs.fees, d.off + 2 ≤ n := by
  simp [fieldsFit, fieldEnds]

theorem chargeDecode_of_fits {c : Config} {p : Bytes}
    (h : fieldsFit c .chargeStatus p.length = true) : chargeDecode c p = .ok (chargeRecord c p) := by
  obtain ⟨hsession, huser, hresv, hstart, hctype, hfees⟩ := (fieldsFit_chargeStatus_iff c p.length).mp h
  simp only [chargeDecode, readField, readSpan_of_fits hsession, readSpan_of_fits huser,
    readByte_of_fits hresv, readByte_of_fits hstart, readByte_of_fits hctype, readFees_of_fits p _ hfees]
  rfl

theorem fits_of_chargeDecode {c : Config} {p : Bytes} {r : ChargeRecord}
    (h : chargeDecode c p = .ok r) : fieldsFit c .chargeStatus p.length = true := by
  obtain ⟨_, hsession, h⟩ := decoded_bind h
  obtain ⟨_, huser, h⟩ := decoded_bind h
  obtain ⟨_, hresv, h⟩ := decoded_bind h
  obtain ⟨_, hstart, h⟩ := decoded_bind h
  obtain ⟨_, hctype, h⟩ := decoded_bind h
  obtain ⟨_, hfees, -⟩ := decoded_bind h
  exact (fieldsFit_chargeStatus_iff c p.length).mpr ⟨fits_of_readSpan hsession, fits_of_readSpan huser,
    fits_of_readUInt hresv, fits_of_readUInt hstart, fits_of_readUInt hctype, fits_of_readFees hfees⟩

/-- A charge-status frame gives its record or a DECODE_ERROR (R196, R304). -/
theorem frameEvent_chargeStatus (c : Config) (f : Bytes) :
    (fieldsFit c .chargeStatus (payloadOf f).length = true →
      frameEvent .chargeStatus f (decodeChargeStatus c (payloadOf f)) =
        .frame .chargeStatus (header f) (.chargeStatus (chargeRecord c (payloadOf f)))) ∧
    (fieldsFit c .chargeStatus (payloadOf f).length = false →
      frameEvent .chargeStatus f (decodeChargeStatus c (payloadOf f)) =
        .decodeError (header f).cmd .payloadShort f) := by
  refine frameEvent_of_fits (fun h => ?_) (fun x hx => ?_) fun h => ?_
  · rw [decodeChargeStatus, chargeDecode_of_fits h]
    rfl
  · obtain ⟨_, hx, -⟩ := decoded_map hx
    exact fits_of_chargeDecode hx
  · obtain ⟨-, -, hresv, -⟩ := (fieldsFit_chargeStatus_iff c _).mp h
    exact ne_nil_of_holds hresv Nat.one_pos

/-! ### The charge acknowledgements -/

theorem fieldsFit_chargeStartAck_iff (c : Config) (n : Nat) :
    fieldsFit c .chargeStartAck n = true ↔
      c.csa.result.off + c.csa.result.width.bytes ≤ n ∧ c.csa.reason.off + c.csa.reason.width.bytes ≤ n ∧
        c.csa.amps.off + c.csa.amps.width.bytes ≤ n := by
  simp [fieldsFit, fieldEnds]

theorem fieldsFit_chargeStopAck_iff (c : Config) (n : Nat) :
    fieldsFit c .chargeStopAck n = true ↔ c.cstResult.off + c.cstResult.width.bytes ≤ n := by
  simp [fieldsFit, fieldEnds]

/-- A charge-start acknowledgement gives its three raw fields or a DECODE_ERROR (R200, R304). -/
theorem frameEvent_chargeStartAck (c : Config) (f : Bytes) :
    (fieldsFit c .chargeStartAck (payloadOf f).length = true →
      frameEvent .chargeStartAck f (decodeChargeStartAck c (payloadOf f)) =
        .frame .chargeStartAck (header f) (.chargeStartAck
          { reservationResult := fieldValue (payloadOf f) c.csa.result
            errorReason := fieldValue (payloadOf f) c.csa.reason
            outputAmps := fieldValue (payloadOf f) c.csa.amps })) ∧
    (fieldsFit c .chargeStartAck (payloadOf f).length = false →
      frameEvent .chargeStartAck f (decodeChargeStartAck c (payloadOf f)) =
        .decodeError (header f).cmd .payloadShort f) := by
  have hiff := fieldsFit_chargeStartAck_iff c (payloadOf f).length
  refine frameEvent_of_fits (fun h => ?_) (fun x hx => ?_) fun h => ?_
  · obtain ⟨hresult, hreason, hamps⟩ := hiff.mp h
    rw [decodeChargeStartAck, readU_of_fits hresult, readU_of_fits hreason, readU_of_fits hamps]
    rfl
  · obtain ⟨_, hresult, hx⟩ := decoded_bind hx
    obtain ⟨_, hreason, hx⟩ := decoded_bind hx
    obtain ⟨_, hamps, -⟩ := decoded_bind hx
    exact hiff.mpr ⟨fits_of_readUInt hresult, fits_of_readUInt hreason, fits_of_readUInt hamps⟩
  · obtain ⟨hresult, -⟩ := hiff.mp h
    exact ne_nil_of_holds hresult (Width.bytes_pos _)

/-- A charge-stop acknowledgement gives its raw result or a DECODE_ERROR (R201, R304). -/
theorem frameEvent_chargeStopAck (c : Config) (f : Bytes) :
    (fieldsFit c .chargeStopAck (payloadOf f).length = true →
      frameEvent .chargeStopAck f (decodeChargeStopAck c (payloadOf f)) =
        .frame .chargeStopAck (header f) (.chargeStopAck (fieldValue (payloadOf f) c.cstResult))) ∧
    (fieldsFit c .chargeStopAck (payloadOf f).length = false →
      frameEvent .chargeStopAck f (decodeChargeStopAck c (payloadOf f)) =
        .decodeError (header f).cmd .payloadShort f) := by
  have hiff := fieldsFit_chargeStopAck_iff c (payloadOf f).length
  refine frameEvent_of_fits (fun h => ?_) (fun x hx => ?_) fun h => ?_
  · rw [decodeChargeStopAck, readU_of_fits (hiff.mp h)]
    rfl
  · obtain ⟨_, hx, -⟩ := decoded_map hx
    exact hiff.mpr (fits_of_readUInt hx)
  · exact ne_nil_of_holds (hiff.mp h) (Width.bytes_pos _)

end Sys2Proof.Machine

/-! ### The statements of the charging family -/

namespace Sys2Proof.Proofs

open Sys2Proof.Machine

/-- Settles O49: a field with a bit set has a lowest and a highest one, and each order finds its own. -/
theorem firstSetBitFromEitherEnd : Obligations.FirstSetBitFromEitherEnd := by
  refine ⟨fun o eb w heb => ⟨?_, fun h0 => ?_, ?_, ?_⟩, fun t => ⟨rfl, fun i hi => if_neg hi⟩⟩
  · rintro rfl
    exact firstSet_zero o w
  · cases o
    case lsbFirst => exact (firstSet_lsbFirst heb h0).1
    case msbFirst => exact (firstSet_msbFirst heb h0).1
  · rintro h0 rfl
    exact (firstSet_lsbFirst heb h0).2
  · rintro h0 rfl
    exact (firstSet_msbFirst heb h0).2

/-- Settles O47: codes 4 and 13 share one layout, and an event answer writes its response alone. -/
theorem acStatusFramesDecode : Obligations.AcStatusFramesDecode := by
  intro s ph f answers p l uint u v a ew eb pl cu record
  obtain ⟨hframe, hshort⟩ := frameEvent_acStatus s.cfg ph f
  exact ⟨fun h => ⟨congrArg answers (hframe h), congrArg answers (hframe h)⟩,
    fun h => ⟨congrArg answers (hshort h), congrArg answers (hshort h)⟩⟩

/-- Settles O48. -/
theorem temperatureSentinelAndFormula : Obligations.TemperatureSentinelAndFormula :=
  ⟨rfl, fun _ hraw => if_neg hraw⟩

/-- Settles O50: the zero rule decides each branch. -/
theorem powerIsTheSumOrZero : Obligations.PowerIsTheSumOrZero := fun v a =>
  ⟨fun h => (power_one v a).trans (if_pos h), fun h => (power_one v a).trans (if_neg h),
    fun h => (power_three v a).trans (if_pos h), fun h => (power_three v a).trans (if_neg h)⟩

/-- Settles O51: only current states 14 and 15 look at the plug state, whose two codes differ. -/
theorem chargingStatusFollowsItsTable : Obligations.ChargingStatusFollowsItsTable := by
  intro plugCu cu pl hcu cl un
  refine ⟨?_, ?_, ?_, ?_, ?_, ?_, ?_, ?_, ?_, ?_, ?_, chargingStatus_of_not_mem plugCu pl, ?_⟩
  case refine_2 =>
    rintro rfl hpl
    exact (chargingStatus_fourteen plugCu pl).trans (if_pos hpl)
  case refine_3 =>
    rintro rfl hpl
    have hne : pl ≠ plugCl := hpl ▸ hcu
    exact (chargingStatus_fourteen plugCu pl).trans ((if_neg hne).trans (if_pos hpl))
  case refine_4 =>
    rintro rfl hpl
    exact (chargingStatus_fifteen plugCu pl).trans (if_pos hpl)
  case refine_12 =>
    rintro (rfl | rfl) hcl hun
    · exact (chargingStatus_fourteen plugCu pl).trans ((if_neg hcl).trans (if_neg hun))
    · exact (chargingStatus_fifteen plugCu pl).trans (if_neg (not_or.mpr ⟨hcl, hun⟩))
  case refine_11 => rintro (rfl | rfl) <;> rfl
  all_goals
    rintro rfl
    rfl

/-- Settles O52: codes 5 and 6 share one layout, and an event answer writes its response alone. -/
theorem chargeStatusFramesDecode : Obligations.ChargeStatusFramesDecode := by
  intro s ph f answers p l fee record
  obtain ⟨hframe, hshort⟩ := frameEvent_chargeStatus s.cfg f
  exact ⟨fun h => ⟨congrArg answers (hframe h), congrArg answers (hframe h)⟩,
    fun h => ⟨congrArg answers (hshort h), congrArg answers (hshort h)⟩⟩

/-- Settles O53: each acknowledgement is the event of its own kind. -/
theorem chargeAcknowledgementsDecode : Obligations.ChargeAcknowledgementsDecode := by
  intro s ph f answers short p u
  obtain ⟨hstart, hstartShort⟩ := frameEvent_chargeStartAck s.cfg f
  obtain ⟨hstop, hstopShort⟩ := frameEvent_chargeStopAck s.cfg f
  exact ⟨fun h => congrArg answers (hstart h), fun h => congrArg answers (hstartShort h),
    fun h => congrArg answers (hstop h), fun h => congrArg answers (hstopShort h)⟩

end Sys2Proof.Proofs

/-!
PROOFS. The configuration kinds (44_decoder_config.md): when a payload decodes, the kinds whose only field is
an unsigned number, VERSION and DEVICE_NAME, and the statements O54 and O55.
-/

/-! ### When a payload decodes -/

namespace Sys2Proof.Machine

/-- Every field fits, and a kind that reads one has a payload (R150's corner case, log 25). -/
theorem payloadDecodes_iff (c : Config) (kind : Kind) (n : Nat) :
    payloadDecodes c kind n = true ↔ fieldsFit c kind n = true ∧ (readsField kind = true → 0 < n) := by
  simp only [payloadDecodes, Bool.and_eq_true, Bool.or_eq_true, Bool.not_eq_true', decide_eq_true_eq,
    ← Bool.not_eq_true, Decidable.imp_iff_not_or]

/-- A kind whose payload decode answers `record` when its fields fit, and a value only then, gives the FRAME
of that record exactly when its payload decodes: the form of `frameEvent_of_fits` for a kind that can fit an
empty payload (R150, R304; log 25). -/
theorem frameEvent_of_payloadDecodes {c : Config} {kind : Kind} {f : Bytes} {r : Decoded Record}
    {record : Record} (hok : fieldsFit c kind (payloadOf f).length = true → r = .ok record)
    (hfits : ∀ x, r = .ok x → fieldsFit c kind (payloadOf f).length = true) :
    (payloadDecodes c kind (payloadOf f).length = true →
      frameEvent kind f r = .frame kind (header f) record) ∧
    (payloadDecodes c kind (payloadOf f).length = false →
      frameEvent kind f r = .decodeError (header f).cmd .payloadShort f) := by
  rw [← Bool.not_eq_true, payloadDecodes_iff]
  rcases frameEvent_cases kind f r with ⟨x, hx, hne, hframe⟩ | ⟨hbad, hshort⟩
  · have hfit := hfits x hx
    obtain rfl : x = record := Except.ok.inj (hx.symm.trans (hok hfit))
    exact ⟨fun _ => hframe, fun h => absurd ⟨hfit, fun hk => List.length_pos_iff.mpr (hne hk)⟩ h⟩
  · refine ⟨fun ⟨hfit, hpos⟩ => ?_, fun _ => hshort⟩
    rcases hbad with herr | ⟨hk, hp⟩
    · cases herr.symm.trans (hok hfit)
    · exact absurd hp (List.length_pos_iff.mp (hpos hk))

/-! ### The kinds whose only field is an unsigned number -/

/-- A kind that reads a single field fits where that field ends (R304). -/
theorem fieldsFit_iff_of_single {c : Config} {kind : Kind} {n last : Nat}
    (hends : fieldEnds c kind n = [last]) : fieldsFit c kind n = true ↔ last ≤ n := by
  simp [fieldsFit, hends]

/-- A kind that reads one unsigned field of at least one byte, of value `value` where it fits, gives the
FRAME of that value or a DECODE_ERROR (R48, R304). -/
theorem frameEvent_of_uint {c : Config} {kind : Kind} {f : Bytes} {off w value : Nat} {ord : ByteOrder}
    (mk : Nat → Record) (hends : fieldEnds c kind (payloadOf f).length = [off + w]) (hw : 0 < w)
    (hread : off + w ≤ (payloadOf f).length → readUInt (payloadOf f) off w ord = .ok value) :
    (fieldsFit c kind (payloadOf f).length = true →
      frameEvent kind f (mk <$> readUInt (payloadOf f) off w ord) = .frame kind (header f) (mk value)) ∧
    (fieldsFit c kind (payloadOf f).length = false →
      frameEvent kind f (mk <$> readUInt (payloadOf f) off w ord) =
        .decodeError (header f).cmd .payloadShort f) := by
  have hiff := fieldsFit_iff_of_single hends
  refine frameEvent_of_fits (fun h => ?_) (fun x hx => ?_) fun h => ?_
  · rw [hread (hiff.mp h)]
    rfl
  · obtain ⟨_, hx, -⟩ := decoded_map hx
    exact hiff.mpr (fits_of_readUInt hx)
  · exact ne_nil_of_holds (hiff.mp h) hw

/-! ### VERSION and DEVICE_NAME -/

/-- The version layout fits when each of its three fields does (R221). -/
theorem fieldsFit_version_iff (c : Config) (n : Nat) :
    fieldsFit c .version n = true ↔
      extentEnd c.version.hw.off c.version.hw.extent ≤ n ∧
        extentEnd c.version.sw.off c.version.sw.extent ≤ n ∧ c.version.featureOff + 4 ≤ n := by
  simp [fieldsFit, fieldEnds]

/-- What R221 reads from a payload that holds every field of the version layout. -/
def versionRecord (c : Config) (p : Bytes) : VersionRecord :=
  { hwVersion := extentBytes p c.version.hw.off c.version.hw.extent
    swVersion := extentBytes p c.version.sw.off c.version.sw.extent
    feature := uintValue c.version.featureOrd ((p.drop c.version.featureOff).take 4) }

/-- A version frame gives its record or a DECODE_ERROR (R221, R304). -/
theorem frameEvent_version (c : Config) (f : Bytes) :
    (fieldsFit c .version (payloadOf f).length = true →
      frameEvent .version f (decodeVersion c (payloadOf f)) =
        .frame .version (header f) (.version (versionRecord c (payloadOf f)))) ∧
    (fieldsFit c .version (payloadOf f).length = false →
      frameEvent .version f (decodeVersion c (payloadOf f)) =
        .decodeError (header f).cmd .payloadShort f) := by
  have hiff := fieldsFit_version_iff c (payloadOf f).length
  refine frameEvent_of_fits (fun h => ?_) (fun x hx => ?_) fun h => ?_
  · obtain ⟨hhw, hsw, hfeature⟩ := hiff.mp h
    rw [decodeVersion, readField, readSpan_of_fits hhw, readField, readSpan_of_fits hsw,
      readUInt_of_fits hfeature]
    rfl
  · obtain ⟨_, hhw, hx⟩ := decoded_bind hx
    obtain ⟨_, hsw, hx⟩ := decoded_bind hx
    obtain ⟨_, hfeature, -⟩ := decoded_bind hx
    exact hiff.mpr ⟨fits_of_readSpan hhw, fits_of_readSpan hsw, fits_of_readUInt hfeature⟩
  · obtain ⟨-, -, hfeature⟩ := hiff.mp h
    exact ne_nil_of_holds hfeature (by decide)

/-- A device-name frame gives the name's bytes or a DECODE_ERROR (R223, R150, R304). -/
theorem frameEvent_deviceName (c : Config) (f : Bytes) :
    (payloadDecodes c .deviceName (payloadOf f).length = true →
      frameEvent .deviceName f (decodeDeviceName c (payloadOf f)) =
        .frame .deviceName (header f)
          (.deviceName (extentBytes (payloadOf f) c.name.off c.name.extent))) ∧
    (payloadDecodes c .deviceName (payloadOf f).length = false →
      frameEvent .deviceName f (decodeDeviceName c (payloadOf f)) =
        .decodeError (header f).cmd .payloadShort f) := by
  have hiff : fieldsFit c .deviceName (payloadOf f).length = true ↔
      extentEnd c.name.off c.name.extent ≤ (payloadOf f).length := fieldsFit_iff_of_single rfl
  refine frameEvent_of_payloadDecodes (fun h => ?_) fun x hx => ?_
  · rw [decodeDeviceName, readField, readSpan_of_fits (hiff.mp h)]
    rfl
  · obtain ⟨_, hx, -⟩ := decoded_map hx
    exact hiff.mpr (fits_of_readSpan hx)

end Sys2Proof.Machine

/-! ### The statements of the configuration family -/

namespace Sys2Proof.Proofs

open Sys2Proof.Machine

/-- Settles O54: each kind answers its own event, and an event answer writes its response alone. -/
theorem configurationFramesDecode : Obligations.ConfigurationFramesDecode := by
  intro s ph f answers short p span
  obtain ⟨htime, htimeShort⟩ := frameEvent_of_uint (c := s.cfg) (kind := .systemTime) (ord := .le)
    .systemTime rfl (by decide) (readUInt_of_fits (p := payloadOf f))
  obtain ⟨hversion, hversionShort⟩ := frameEvent_version s.cfg f
  obtain ⟨hamps, hampsShort⟩ := frameEvent_of_uint (c := s.cfg) (kind := .outputAmps)
    .outputAmps rfl Nat.one_pos (readByte_of_fits (p := payloadOf f))
  obtain ⟨hname, hnameShort⟩ := frameEvent_deviceName s.cfg f
  exact ⟨fun h => congrArg answers (htime h), fun h => congrArg answers (htimeShort h),
    fun h => congrArg answers (hversion h), fun h => congrArg answers (hversionShort h),
    fun h => congrArg answers (hamps h), fun h => congrArg answers (hampsShort h),
    fun h => congrArg answers (hname h), fun h => congrArg answers (hnameShort h)⟩

/-- Settles O55: the two codes are unsigned fields, and UNKNOWN reads no field that could fail to fit. -/
theorem codeAndUnknownFramesDecode : Obligations.CodeAndUnknownFramesDecode := by
  intro s ph f answers short p u
  obtain ⟨hlang, hlangShort⟩ := frameEvent_of_uint (c := s.cfg) (kind := .language)
    .language rfl (Width.bytes_pos _) (readU_of_fits (p := payloadOf f) (d := s.cfg.langCode))
  obtain ⟨hunit, hunitShort⟩ := frameEvent_of_uint (c := s.cfg) (kind := .temperatureUnit)
    .temperatureUnit rfl (Width.bytes_pos _) (readU_of_fits (p := payloadOf f) (d := s.cfg.tempuCode))
  have hunknown : frameEvent .unknown f decodeUnknown = .frame .unknown (header f) .unknown := rfl
  exact ⟨fun h => congrArg answers (hlang h), fun h => congrArg answers (hlangShort h),
    fun h => congrArg answers (hunit h), fun h => congrArg answers (hunitShort h),
    congrArg answers hunknown⟩

end Sys2Proof.Proofs

/-!
PROOFS. The encoder family (45_encoder.md): what ENCODE answers, the header of the frame it builds, the event
of a valid frame by whether its payload decodes, and the statements O29 and O30.
-/

/-! ### What ENCODE answers -/

namespace Sys2Proof.Machine

/-- A payload within `ENC_MAX_PAYLOAD` is answered with the built frame (R250). -/
theorem exec_encode_of_fits {s : State} (serial : BitVec 64) (password : Bytes) (cmd : BitVec 16)
    {payload : Bytes} (h : payload.length ≤ s.cfg.encMaxPayload) :
    exec (.encode serial password cmd payload) s =
      .next (s.respond (okValue (.frame (buildFrame serial.toNat password cmd.toNat payload)))) :=
  if_neg (Nat.not_lt.mpr h)

/-- A payload over `ENC_MAX_PAYLOAD` is rejected (R253). -/
theorem exec_encode_of_long {s : State} (serial : BitVec 64) (password : Bytes) (cmd : BitVec 16)
    {payload : Bytes} (h : s.cfg.encMaxPayload < payload.length) :
    exec (.encode serial password cmd payload) s = .next (s.respond (rejected .encTooLong)) :=
  exec_of_rejection_eq_some (if_pos h)

/-! ### The header of a built frame -/

theorem beValue_be16 {v : Nat} (h : v < 65536) : beValue (be16 v) = v := by
  simp [be16, beValue_cons]
  omega

/-- R151's header undoes R250's frame: each operand is read back where the encoder put it. -/
theorem header_buildFrame (serial : BitVec 64) {password : Bytes} (cmd : BitVec 16) (payload : Bytes)
    (hpw : password.length = 6) :
    header (buildFrame serial.toNat password cmd.toNat payload) =
      { keyType := 0, serial := serial, password := password, cmd := cmd, payload := payload
        csum := BitVec.ofNat 16 (csumEnc (frameBody serial.toNat password cmd.toNat payload)) } := by
  obtain ⟨hkey, hserial, hpassword, hcmd, hpayload, hcsum⟩ :=
    frame_fields (f := buildFrame serial.toNat password cmd.toNat payload) rfl
      (be16_length _) (le64_length _) hpw (be16_length _) (be16_length _) rfl
  rw [leValue_le64 serial.isLt] at hserial
  rw [beValue_be16 cmd.isLt] at hcmd
  rw [beValue_be16 (csumEnc_lt _)] at hcsum
  rw [header, hkey, hserial, hpassword, hcmd, hpayload, hcsum, BitVec.ofNat_toNat, BitVec.ofNat_toNat,
    BitVec.setWidth_eq, BitVec.setWidth_eq]

/-! ### The event of a valid frame -/

/-- The event of a frame of `kind` whose payload decode answered `r` is a FRAME with the frame's header when
the payload decodes, and a DECODE_ERROR when it does not (R150, R304). -/
def EventFollowsFit (c : Config) (kind : Kind) (f : Bytes) (r : Decoded Record) : Prop :=
  (payloadDecodes c kind (payloadOf f).length = true →
    ∃ record, frameEvent kind f r = .frame kind (header f) record) ∧
  (payloadDecodes c kind (payloadOf f).length = false →
    frameEvent kind f r = .decodeError (header f).cmd .payloadShort f)

/-- A kind whose fields alone decide its event: an empty payload they fit in is R150's corner case
(log 25). -/
theorem eventFollowsFit_of_fieldsFit {c : Config} {kind : Kind} {f : Bytes} {r : Decoded Record}
    {record : Record}
    (h : (fieldsFit c kind (payloadOf f).length = true →
        frameEvent kind f r = .frame kind (header f) record) ∧
      (fieldsFit c kind (payloadOf f).length = false →
        frameEvent kind f r = .decodeError (header f).cmd .payloadShort f)) :
    EventFollowsFit c kind f r := by
  obtain ⟨hframe, hshort⟩ := h
  refine ⟨fun hdec => ⟨record, hframe ((payloadDecodes_iff c kind _).mp hdec).1⟩, fun hdec => ?_⟩
  cases hfit : fieldsFit c kind (payloadOf f).length with
  | false => exact hshort hfit
  | true =>
    obtain ⟨hkind, hempty⟩ : readsField kind = true ∧ payloadOf f = [] := by
      simpa [payloadDecodes, hfit] using hdec
    exact frameEvent_of_empty r ((readsField_eq_true_iff kind).mp hkind) hempty

/-- A login frame of either code gives its record or a DECODE_ERROR (R159, R304). -/
theorem frameEvent_login (c : Config) (kind : Kind) (f : Bytes) :
    (fieldsFit c .loginBeacon (payloadOf f).length = true →
      frameEvent kind f (.login <$> loginDecode c (payloadOf f)) =
        .frame kind (header f) (.login (loginRecord c (payloadOf f)))) ∧
    (fieldsFit c .loginBeacon (payloadOf f).length = false →
      frameEvent kind f (.login <$> loginDecode c (payloadOf f)) =
        .decodeError (header f).cmd .payloadShort f) := by
  refine frameEvent_of_fits (fun h => ?_) (fun x hx => ?_) payload_ne_nil_of_fits_login
  · rw [loginDecode_of_fits h]
    rfl
  · obtain ⟨_, hx, -⟩ := decoded_map hx
    exact fits_of_loginDecode hx

/-- Every kind's payload decode follows its layout (R150, R304). -/
theorem eventFollowsFit_kindDecode (c : Config) (kind : Kind) (p : Phases) (f : Bytes) :
    EventFollowsFit c kind f (kindDecode c kind (payloadOf f) p) := by
  cases kind with
  | loginBeacon => exact eventFollowsFit_of_fieldsFit (frameEvent_login c .loginBeacon f)
  | loginResponse => exact eventFollowsFit_of_fieldsFit (frameEvent_login c .loginResponse f)
  | acStatus => exact eventFollowsFit_of_fieldsFit (frameEvent_acStatus c p f)
  | chargeStatus => exact eventFollowsFit_of_fieldsFit (frameEvent_chargeStatus c f)
  | chargeStartAck => exact eventFollowsFit_of_fieldsFit (frameEvent_chargeStartAck c f)
  | chargeStopAck => exact eventFollowsFit_of_fieldsFit (frameEvent_chargeStopAck c f)
  | systemTime =>
    exact eventFollowsFit_of_fieldsFit
      (frameEvent_of_uint .systemTime rfl (by decide) readUInt_of_fits)
  | version => exact eventFollowsFit_of_fieldsFit (frameEvent_version c f)
  | outputAmps =>
    exact eventFollowsFit_of_fieldsFit
      (frameEvent_of_uint .outputAmps rfl Nat.one_pos readByte_of_fits)
  | deviceName =>
    obtain ⟨hframe, hshort⟩ := frameEvent_deviceName c f
    exact ⟨fun h => ⟨_, hframe h⟩, hshort⟩
  | language =>
    exact eventFollowsFit_of_fieldsFit
      (frameEvent_of_uint .language rfl (Width.bytes_pos _) readU_of_fits)
  | temperatureUnit =>
    exact eventFollowsFit_of_fieldsFit
      (frameEvent_of_uint .temperatureUnit rfl (Width.bytes_pos _) readU_of_fits)
  | unknown => exact ⟨fun _ => ⟨.unknown, rfl⟩, fun h => by cases h⟩

/-- `Process` on a valid frame, by whether its payload decodes (R150, R304). -/
theorem process_of_valid_cases {f : Bytes} (c : Config) (p : Phases) (hv : validate f = .valid) :
    (payloadDecodes c (dispatchKind (frameCode f)) (payloadOf f).length = true →
      ∃ record, process c p f = .frame (dispatchKind (frameCode f)) (header f) record) ∧
    (payloadDecodes c (dispatchKind (frameCode f)) (payloadOf f).length = false →
      process c p f = .decodeError (header f).cmd .payloadShort f) := by
  rw [process_of_valid c p hv]
  exact eventFollowsFit_kindDecode c _ p f

/-! ### A built frame under DECODE and FEED -/

section BuiltFrame

variable (serial : BitVec 64) {password : Bytes} (cmd : BitVec 16) {payload : Bytes}

/-- Up to 240 payload bytes the two checksums agree, so a built frame is valid (R135, R254). -/
theorem validate_buildFrame_of_le (hpw : password.length = 6) (hn : payload.length ≤ 240) :
    validate (buildFrame serial.toNat password cmd.toNat payload) = .valid := by
  have hsum := byteSum_frameBody_le serial.toNat cmd.toNat payload hpw hn
  rw [validate_buildFrame serial.toNat cmd.toNat payload hpw (by omega)]
  exact if_pos (by omega)

/-- `Process` on a built frame recovers the operands, or names the command code (R254). -/
theorem process_buildFrame (c : Config) (p : Phases) (hpw : password.length = 6)
    (hn : payload.length ≤ 240) :
    let f := buildFrame serial.toNat password cmd.toNat payload
    (payloadDecodes c (dispatchKind cmd.toNat) payload.length = true →
      ∃ h record, process c p f = .frame (dispatchKind cmd.toNat) h record ∧ h.serial = serial ∧
        h.cmd = cmd ∧ h.payload = payload ∧ h.password = password ∧ h.keyType = 0) ∧
    (payloadDecodes c (dispatchKind cmd.toNat) payload.length = false →
      process c p f = .decodeError cmd .payloadShort f) := by
  intro f
  have hheader := header_buildFrame serial cmd payload hpw
  have hcode : frameCode f = cmd.toNat := by rw [← header_cmd_toNat, hheader]
  have hpayload : payloadOf f = payload := congrArg Header.payload hheader
  obtain ⟨hframe, hshort⟩ := process_of_valid_cases c p (validate_buildFrame_of_le serial cmd hpw hn)
  rw [hcode, hpayload, hheader] at hframe hshort
  refine ⟨fun hdec => ?_, hshort⟩
  obtain ⟨record, hprocess⟩ := hframe hdec
  exact ⟨_, record, hprocess, rfl, rfl, rfl, rfl, rfl⟩

end BuiltFrame

/-- A valid frame of at most 255 bytes, delivered whole, is the one candidate, whatever was pending (R102,
R104). -/
theorem feedChunk_validFrame {judge : Bytes → Event} {f : Bytes} (buf : Bytes) (len : Option Nat)
    (hv : validate f = .valid) (hn : f.length ≤ 255) :
    feedChunk judge buf len f = ⟨[judge f], [], none⟩ := by
  have hcut := feedChunk_validFrame_append (judge := judge) buf len [] hv hn
  rwa [List.append_nil] at hcut

end Sys2Proof.Machine

/-! ### The statements of the encoder family -/

namespace Sys2Proof.Proofs

open Sys2Proof.Machine

/-- Settles O30: `Process` gives one event for the built frame, DECODE answers it, and FEED cuts exactly the
frame where its length fits the length byte. -/
theorem encodeThenDecodeRecoversTheOperands : Obligations.EncodeThenDecodeRecoversTheOperands := by
  intro s serial password cmd payload p hpw hn hmax
  obtain ⟨hframe, hshort⟩ := process_buildFrame serial cmd s.cfg p hpw hn
  refine ⟨buildFrame serial.toNat password cmd.toNat payload, _,
    exec_encode_of_fits serial password cmd hmax, execDecode_eq s p _, hframe, hshort,
    fun hn230 hbuf hlen hfits => ?_⟩
  have hplaced : feedChunk (process s.cfg p) s.raBuf s.raLen
      (buildFrame serial.toNat password cmd.toNat payload) =
      ⟨[process s.cfg p (buildFrame serial.toNat password cmd.toNat payload)], s.raBuf, s.raLen⟩ := by
    rw [hbuf, hlen]
    exact feedChunk_validFrame [] none (validate_buildFrame_of_le serial cmd hpw hn)
      (by rw [buildFrame_length]; omega)
  exact exec_feed_of_feedChunk hfits hplaced

/-- Settles O29: the frame written out is the one `buildFrame` names, and each branch of the bound is one
answer. -/
theorem encodeBuildsTheFrame : Obligations.EncodeBuildsTheFrame := by
  intro s serial password cmd payload body
  exact ⟨exec_encode_of_fits serial password cmd, exec_encode_of_long serial password cmd⟩

end Sys2Proof.Proofs

/-!
PROOFS. The exceptions family (60_exceptions.md): every step answers a next state, and DECODE's two answers
for a valid frame, with the statements O8 and O43.
-/

/-! ### DECODE of a valid frame -/

namespace Sys2Proof.Machine

/-- DECODE answers the event `Process` gives (R150). -/
theorem exec_decode_of_process {s : State} {p : Phases} {f : Bytes} {e : Event}
    (h : process s.cfg p f = e) :
    exec (.decode (phasesByte p) f) s = .next (s.respond (okEvents [e])) := by
  rw [show exec (.decode (phasesByte p) f) s = _ from execDecode_eq s p f, h]

end Sys2Proof.Machine

/-! ### The statements of the exceptions family -/

namespace Sys2Proof.Proofs

open Sys2Proof.Machine

/-- Settles O43: DECODE answers the one event of `Process`, which follows the kind's layout. -/
theorem decodeErrorExactlyWhenAFieldDoesNotFit :
    Obligations.DecodeErrorExactlyWhenAFieldDoesNotFit := by
  intro s p f hv
  obtain ⟨hframe, hshort⟩ := process_of_valid_cases s.cfg p hv
  rw [payloadOf_length] at hframe hshort
  refine ⟨fun hdec => ?_, fun hdec => exec_decode_of_process (hshort hdec)⟩
  obtain ⟨record, hprocess⟩ := hframe hdec
  exact ⟨record, exec_decode_of_process hprocess⟩

/-- Settles O8: an idle step stays where it is, and a step that serves a request answers with the response
appended (R306, R334). -/
theorem everyStepContinues : Obligations.EveryStepContinues := by
  intro s
  cases hq : s.inbox with
  | nil => exact ⟨s, step_of_inbox_nil hq⟩
  | cons q rest =>
    obtain ⟨buf, len, response, hnext, -⟩ := step_of_inbox_cons hq
    exact ⟨_, hnext⟩

end Sys2Proof.Proofs

/-!
PROOFS. The reset and hazards family (70_reset_and_hazards.md): what an operation sees, the idle step, power-on,
and the phase count the host owes, with the statements O6, O11, O16 and O56.
-/

/-! ### The host's phase-count duty, one operation at a time -/

namespace Sys2Proof.Machine

/-- After a RESET no login event counts any more (R336(e)). -/
theorem dutyPhases_append_reset (history : List (Instr × Response)) (r : Response) :
    dutyPhases (history ++ [(.reset, r)]) = .one := by
  simp [dutyPhases]

/-- Any other operation leaves the duty with its response's last login event, or as it was (R336(e)). -/
theorem dutyPhases_append_of_ne_reset (history : List (Instr × Response)) {i : Instr} (r : Response)
    (h : i ≠ .reset) :
    dutyPhases (history ++ [(i, r)]) =
      (r.events.reverse.findSome? loginPhases).getD (dutyPhases history) := by
  cases i with
  | reset => exact absurd rfl h
  | _ => simp [dutyPhases]

end Sys2Proof.Machine

/-! ### The statements of the reset and hazards family -/

namespace Sys2Proof.Proofs

open Sys2Proof.Machine

/-- Settles O16: FEED reads the Reassembler and the configuration, RESET reads nothing, and every other
operation answers from the configuration alone. -/
theorem operationsSeeOnlyTheReassemblerAndTheConfiguration :
    Obligations.OperationsSeeOnlyTheReassemblerAndTheConfiguration :=
  fun i _ _ hbuf hlen hcfg => exec_congr i hbuf hlen hcfg

/-- Settles O6: an empty host port has nothing to fetch. -/
theorem stepWithoutRequestChangesNothing : Obligations.StepWithoutRequestChangesNothing :=
  fun _ hinbox => step_of_inbox_nil hinbox

/-- Settles O11: IDLE is read off the empty Reassembler of the reset state. -/
theorem powerOnIsIdle : Obligations.PowerOnIsIdle :=
  ⟨rfl, rfl, State.phase_idle rfl rfl, rfl⟩

/-- Settles O56: a RESET starts the duty anew, and the one login event of a response is its last. -/
theorem dutyPhasesFollowLoginAndReset : Obligations.DutyPhasesFollowLoginAndReset := by
  intro history r
  refine ⟨dutyPhases_append_reset history r, fun i k h record hi hevents => ?_⟩
  rw [dutyPhases_append_of_ne_reset history r hi, hevents]
  rfl

end Sys2Proof.Proofs
